-- ==== Sys2Proof/Word.lean ====
section
/-! DEFINITION. The widths the CORE works with (R8 of 00_scope.md): 4-bit register indices and nibbles,
8-bit bytes, 12-bit addresses, 16-bit words. -/

namespace Sys2Proof

/-- A 4-bit field: a register index `x` or `y`, or the immediate `n` (R15, R81). -/
abbrev Nibble := BitVec 4

/-- A byte: a general register, a timer, a memory cell, the immediate `kk` (R8, R20). -/
abbrev Byte := BitVec 8

/-- A 12-bit address: the immediate `nnn`, `FONT_BASE` (R8, R15). -/
abbrev Addr := BitVec 12

/-- A 16-bit word: `I`, `pc`, a stack slot, an instruction (R8). -/
abbrev Word := BitVec 16

end Sys2Proof
end

