-- ==== Sys2Proof/Syntax.lean ====
section
/-! DEFINITION. The instructions of the CORE, one constructor per row of spec/opcode_table.json (R84), each
carrying the fields of R92. -/

namespace Sys2Proof

/-- A decoded instruction (R84, R92): "only the fields it needs". -/
inductive Instr where
  /-- `00E0` `CLS` (R190) -/
  | cls
  /-- `00EE` `RET` (R121) -/
  | ret
  /-- `1nnn` `JP nnn` (R122) -/
  | jp (nnn : Addr)
  /-- `2nnn` `CALL nnn` (R123) -/
  | call (nnn : Addr)
  /-- `3xkk` `SE Vx, kk` (R124) -/
  | seImm (x : Nibble) (kk : Byte)
  /-- `4xkk` `SNE Vx, kk` (R125) -/
  | sneImm (x : Nibble) (kk : Byte)
  /-- `5xy0` `SE Vx, Vy` (R126) -/
  | seReg (x y : Nibble)
  /-- `6xkk` `LD Vx, kk` (R141) -/
  | ldImm (x : Nibble) (kk : Byte)
  /-- `7xkk` `ADD Vx, kk` (R142) -/
  | addImm (x : Nibble) (kk : Byte)
  /-- `8xy0` `LD Vx, Vy` (R143) -/
  | ldReg (x y : Nibble)
  /-- `8xy1` `OR Vx, Vy` (R144) -/
  | orReg (x y : Nibble)
  /-- `8xy2` `AND Vx, Vy` (R145) -/
  | andReg (x y : Nibble)
  /-- `8xy3` `XOR Vx, Vy` (R146) -/
  | xorReg (x y : Nibble)
  /-- `8xy4` `ADD Vx, Vy` (R147) -/
  | addReg (x y : Nibble)
  /-- `8xy5` `SUB Vx, Vy` (R148) -/
  | subReg (x y : Nibble)
  /-- `8xy6` `SHR Vx, Vy` (R149); `y` is a free field when the quirk is off (R90) -/
  | shrReg (x y : Nibble)
  /-- `8xy7` `SUBN Vx, Vy` (R150) -/
  | subnReg (x y : Nibble)
  /-- `8xyE` `SHL Vx, Vy` (R151); `y` is a free field when the quirk is off (R90) -/
  | shlReg (x y : Nibble)
  /-- `9xy0` `SNE Vx, Vy` (R127) -/
  | sneReg (x y : Nibble)
  /-- `Annn` `LD I, nnn` (R170) -/
  | ldI (nnn : Addr)
  /-- `Bnnn` `JP V0, nnn` (R128) -/
  | jpV0 (nnn : Addr)
  /-- `Cxkk` `RND Vx, kk` (R152) -/
  | rnd (x : Nibble) (kk : Byte)
  /-- `Dxyn` `DRW Vx, Vy, n` (R191) -/
  | drw (x y n : Nibble)
  /-- `Ex9E` `SKP Vx` (R200) -/
  | skp (x : Nibble)
  /-- `ExA1` `SKNP Vx` (R201) -/
  | sknp (x : Nibble)
  /-- `Fx07` `LD Vx, DT` (R203) -/
  | ldVxDt (x : Nibble)
  /-- `Fx0A` `LD Vx, K` (R204) -/
  | ldVxK (x : Nibble)
  /-- `Fx15` `LD DT, Vx` (R205) -/
  | ldDtVx (x : Nibble)
  /-- `Fx18` `LD ST, Vx` (R206) -/
  | ldStVx (x : Nibble)
  /-- `Fx1E` `ADD I, Vx` (R171) -/
  | addI (x : Nibble)
  /-- `Fx29` `LD F, Vx` (R172) -/
  | ldF (x : Nibble)
  /-- `Fx33` `LD B, Vx` (R173) -/
  | ldB (x : Nibble)
  /-- `Fx55` `LD [I], Vx` (R174) -/
  | dump (x : Nibble)
  /-- `Fx65` `LD Vx, [I]` (R175) -/
  | load (x : Nibble)
  deriving DecidableEq, Repr

end Sys2Proof
end

