-- ==== Sys2Proof/Decode.lean ====
section
/-! DEFINITION. The decoder (R80 to R95), total on any bytes and rejecting by name, and after it the encoder, written
from the same opcode map (R84). The opcode patterns and the positions of the fields below nibble 0 are the spec's
general knowledge, not its source's. UNVERIFIED (log 10). -/

namespace Sys2Proof

/-- Why bytes decode to no instruction. -/
inductive DecodeReject where
  /-- fewer than the two bytes every instruction has (R80) -/
  | truncated
  /-- a word of one of the undecoded spaces of R93 -/
  | unknownWord (w : Word)
  deriving DecidableEq, Repr

/-- `op = inst[15:12]`, nibble 0, the family selector (R81). -/
def opField (w : Word) : Nibble := w.extractLsb' 12 4
/-- `x = inst[11:8]` (R81). -/
def xField (w : Word) : Nibble := w.extractLsb' 8 4
/-- `y = inst[7:4]` (R81). -/
def yField (w : Word) : Nibble := w.extractLsb' 4 4
/-- `n = inst[3:0]` (R81). -/
def nField (w : Word) : Nibble := w.extractLsb' 0 4
/-- `kk = inst[7:0]` (R81, C2). -/
def kkField (w : Word) : Byte := w.extractLsb' 0 8
/-- `nnn = inst[11:0]` (R81). -/
def nnnField (w : Word) : Addr := w.extractLsb' 0 12

/-- Family 0 decodes two words only (R85, D4). -/
def decodeFamily0 (w : Word) : Except DecodeReject Instr :=
  if w = 0x00E0 then .ok .cls
  else if w = 0x00EE then .ok .ret
  else .error (.unknownWord w)

/-- Families 5 and 9 decode only when `n = 0` (R86). -/
def decodeRegisterSkip (i : Instr) (w : Word) : Except DecodeReject Instr :=
  if nField w = 0 then .ok i else .error (.unknownWord w)

/-- Family 8 decodes on `n` (R87). -/
def decodeFamily8 (w : Word) : Except DecodeReject Instr :=
  match nField w with
  | 0x0#4 => .ok (.ldReg (xField w) (yField w))
  | 0x1#4 => .ok (.orReg (xField w) (yField w))
  | 0x2#4 => .ok (.andReg (xField w) (yField w))
  | 0x3#4 => .ok (.xorReg (xField w) (yField w))
  | 0x4#4 => .ok (.addReg (xField w) (yField w))
  | 0x5#4 => .ok (.subReg (xField w) (yField w))
  | 0x6#4 => .ok (.shrReg (xField w) (yField w))
  | 0x7#4 => .ok (.subnReg (xField w) (yField w))
  | 0xE#4 => .ok (.shlReg (xField w) (yField w))
  | _ => .error (.unknownWord w)

/-- Family E decodes on `kk` (R88). -/
def decodeFamilyE (w : Word) : Except DecodeReject Instr :=
  match kkField w with
  | 0x9E#8 => .ok (.skp (xField w))
  | 0xA1#8 => .ok (.sknp (xField w))
  | _ => .error (.unknownWord w)

/-- Family F decodes on `kk` (R89). -/
def decodeFamilyF (w : Word) : Except DecodeReject Instr :=
  match kkField w with
  | 0x07#8 => .ok (.ldVxDt (xField w))
  | 0x0A#8 => .ok (.ldVxK (xField w))
  | 0x15#8 => .ok (.ldDtVx (xField w))
  | 0x18#8 => .ok (.ldStVx (xField w))
  | 0x1E#8 => .ok (.addI (xField w))
  | 0x29#8 => .ok (.ldF (xField w))
  | 0x33#8 => .ok (.ldB (xField w))
  | 0x55#8 => .ok (.dump (xField w))
  | 0x65#8 => .ok (.load (xField w))
  | _ => .error (.unknownWord w)

/-- The decoder on one word (R83 to R93): pure, stateless and total. The last arm is family F, the one value of
nibble 0 that is left. -/
def decodeWord (w : Word) : Except DecodeReject Instr :=
  match opField w with
  | 0x0#4 => decodeFamily0 w
  | 0x1#4 => .ok (.jp (nnnField w))
  | 0x2#4 => .ok (.call (nnnField w))
  | 0x3#4 => .ok (.seImm (xField w) (kkField w))
  | 0x4#4 => .ok (.sneImm (xField w) (kkField w))
  | 0x5#4 => decodeRegisterSkip (.seReg (xField w) (yField w)) w
  | 0x6#4 => .ok (.ldImm (xField w) (kkField w))
  | 0x7#4 => .ok (.addImm (xField w) (kkField w))
  | 0x8#4 => decodeFamily8 w
  | 0x9#4 => decodeRegisterSkip (.sneReg (xField w) (yField w)) w
  | 0xA#4 => .ok (.ldI (nnnField w))
  | 0xB#4 => .ok (.jpV0 (nnnField w))
  | 0xC#4 => .ok (.rnd (xField w) (kkField w))
  | 0xD#4 => .ok (.drw (xField w) (yField w) (nField w))
  | 0xE#4 => decodeFamilyE w
  | _ => decodeFamilyF w

/-- Two bytes as one word, the first byte in bits 15:8 (R62). -/
def wordOfBytes (hi lo : Byte) : Word := hi ++ lo

/-- The high byte of a word, the one stored first (R62). -/
def highByte (w : Word) : Byte := w.extractLsb' 8 8

/-- The low byte of a word, the one stored second (R62). -/
def lowByte (w : Word) : Byte := w.extractLsb' 0 8

/-- The decoder on bytes: one instruction and the bytes after it (R80: always two bytes, big-endian). -/
def decodeBytes : List Byte → Except DecodeReject (Instr × List Byte)
  | hi :: lo :: rest =>
    match decodeWord (wordOfBytes hi lo) with
    | .ok i => .ok (i, rest)
    | .error e => .error e
  | _ => .error .truncated

/-- The format `op x kk` (R81). -/
def packXkk (op x : Nibble) (kk : Byte) : Word := op ++ x ++ kk

/-- The format `op x y n` (R81). -/
def packXyn (op x y n : Nibble) : Word := op ++ x ++ y ++ n

/-- The format `op nnn` (R81). -/
def packNnn (op : Nibble) (nnn : Addr) : Word := op ++ nnn

/-- The word of an instruction (R84). -/
def encode : Instr → Word
  | .cls => 0x00E0
  | .ret => 0x00EE
  | .jp nnn => packNnn 0x1 nnn
  | .call nnn => packNnn 0x2 nnn
  | .seImm x kk => packXkk 0x3 x kk
  | .sneImm x kk => packXkk 0x4 x kk
  | .seReg x y => packXyn 0x5 x y 0x0
  | .ldImm x kk => packXkk 0x6 x kk
  | .addImm x kk => packXkk 0x7 x kk
  | .ldReg x y => packXyn 0x8 x y 0x0
  | .orReg x y => packXyn 0x8 x y 0x1
  | .andReg x y => packXyn 0x8 x y 0x2
  | .xorReg x y => packXyn 0x8 x y 0x3
  | .addReg x y => packXyn 0x8 x y 0x4
  | .subReg x y => packXyn 0x8 x y 0x5
  | .shrReg x y => packXyn 0x8 x y 0x6
  | .subnReg x y => packXyn 0x8 x y 0x7
  | .shlReg x y => packXyn 0x8 x y 0xE
  | .sneReg x y => packXyn 0x9 x y 0x0
  | .ldI nnn => packNnn 0xA nnn
  | .jpV0 nnn => packNnn 0xB nnn
  | .rnd x kk => packXkk 0xC x kk
  | .drw x y n => packXyn 0xD x y n
  | .skp x => packXkk 0xE x 0x9E
  | .sknp x => packXkk 0xE x 0xA1
  | .ldVxDt x => packXkk 0xF x 0x07
  | .ldVxK x => packXkk 0xF x 0x0A
  | .ldDtVx x => packXkk 0xF x 0x15
  | .ldStVx x => packXkk 0xF x 0x18
  | .addI x => packXkk 0xF x 0x1E
  | .ldF x => packXkk 0xF x 0x29
  | .ldB x => packXkk 0xF x 0x33
  | .dump x => packXkk 0xF x 0x55
  | .load x => packXkk 0xF x 0x65

/-- The bytes of an instruction, in the order memory holds them (R62). -/
def encodeBytes (i : Instr) : List Byte := [highByte (encode i), lowByte (encode i)]

/-- The instruction the decoder reads from the word `w` of a table row of `nbits` bits: the word's bytes are laid out
as memory holds them, first byte high (R62), and given to `decodeBytes`. -/
def decodeTableWord (nbits w : Nat) : Option Instr :=
  let inst : Word := BitVec.ofNat 16 (w % 2 ^ nbits)
  match decodeBytes [highByte inst, lowByte inst] with
  | .ok (i, _) => some i
  | .error _ => none

end Sys2Proof
end

