-- ==== Sys2Proof/Config.lean ====
section
/-! DEFINITION. What is fixed at construction (R9, R53), the inputs of one step (R46 to R49) and the free
value that stands for inputs nobody has listed. -/

namespace Sys2Proof

/-- `FONT_WRITE_POLICY` (R9, R65): what a store below 0x200 does. -/
inductive FontWritePolicy where
  | fault
  | allow
  deriving DecidableEq, Repr

/-- `KEY_INDEX_POLICY` (R9, R202): what a keypad index above 0xF does. -/
inductive KeyIndexPolicy where
  | fault
  | mask
  deriving DecidableEq, Repr

/-- The configuration, fixed for a whole run (R9, R10, R53). -/
structure Config where
  /-- `CLOCK_HZ`, steps per second of virtual time, 1 to 1 000 000. -/
  clockHz : Nat
  /-- `QUIRK_SHIFT_USES_VY`: the shifts read `Vy` instead of `Vx`. -/
  shiftUsesVy : Bool
  /-- `QUIRK_LOADSTORE_INCREMENTS_I`: `Fx55` and `Fx65` add `x + 1` to `I`. -/
  loadStoreIncrementsI : Bool
  /-- `QUIRK_ADDI_SETS_VF`: `Fx1E` writes `VF`. -/
  addISetsVf : Bool
  /-- `FONT_BASE`, where the 16 glyphs start. -/
  fontBase : Addr
  /-- `FONT_DATA`, the 16 glyphs of 5 bytes. -/
  fontData : Vector Byte 80
  fontWritePolicy : FontWritePolicy
  keyIndexPolicy : KeyIndexPolicy
  deriving DecidableEq, Repr

/-- The default `FONT_DATA`, the table of R64 row by row.
UNVERIFIED (the spec's own general knowledge, D7; log 11). -/
def Config.standardFont : Vector Byte 80 :=
  (#v[0xF0, 0x90, 0x90, 0x90, 0xF0,  0x20, 0x60, 0x20, 0x20, 0x70,
      0xF0, 0x10, 0xF0, 0x80, 0xF0,  0xF0, 0x10, 0xF0, 0x10, 0xF0] : Vector Byte 20) ++
  (#v[0x90, 0x90, 0xF0, 0x10, 0x10,  0xF0, 0x80, 0xF0, 0x10, 0xF0,
      0xF0, 0x80, 0xF0, 0x90, 0xF0,  0xF0, 0x10, 0x20, 0x40, 0x40] : Vector Byte 20) ++
  (#v[0xF0, 0x90, 0xF0, 0x90, 0xF0,  0xF0, 0x90, 0xF0, 0x10, 0xF0,
      0xF0, 0x90, 0xF0, 0x90, 0x90,  0xE0, 0x90, 0xE0, 0x90, 0xE0] : Vector Byte 20) ++
  (#v[0xF0, 0x80, 0x80, 0x80, 0xF0,  0xE0, 0x90, 0x90, 0x90, 0xE0,
      0xF0, 0x80, 0xF0, 0x80, 0xF0,  0xF0, 0x80, 0xF0, 0x80, 0x80] : Vector Byte 20)

/-- The configuration of `State.reset`: every default of R9. `CLOCK_HZ` has no default in the spec ("it must be
given"); 60 is the value of 95_test_vectors.md. DESIGN CHOICE (log 2). -/
def Config.default : Config where
  clockHz := 60
  shiftUsesVy := false
  loadStoreIncrementsI := false
  addISetsVf := false
  fontBase := 0x000
  fontData := Config.standardFont
  fontWritePolicy := .fault
  keyIndexPolicy := .fault

/-- The inputs of one step: the keypad snapshot `KEYS[15:0]` (R46), the key event `KEV_VALID` with
`KEV_CODE[3:0]` (R47, R48; `none` is `KEV_VALID = 0`) and the random byte `RAND[7:0]` (R49). -/
structure StepInput where
  keys : BitVec 16
  event : Option Nibble
  rand : Byte
  deriving DecidableEq, Repr, Inhabited

/-- No key held, no key event, a zero random byte. -/
def StepInput.idle : StepInput := { keys := 0, event := none, rand := 0 }

/-- FREE VALUE (log 3): the inputs of a step for which State lists none, by the number of such steps before it.
The spec puts no law on any of them (R47, R49, R118, U4), so nothing is known of this function. -/
opaque Config.freeInput : Nat → StepInput

end Sys2Proof
end

