-- ==== Sys2Proof/Machine/State.lean ====
section
/-! DEFINITION. The state of the CORE as plain data (R42), the reasons a step can stop, and the state after reset
(R44, R253). -/

namespace Sys2Proof.Machine

/-- `MODE`, the interpreter state (R35). -/
inductive Mode where
  | running
  | waitingForKey
  | haltedFatal
  deriving DecidableEq, Repr

/-- The spec's own 2-bit numbers of the modes (R35, D30; log 23). -/
def Mode.code : Mode → BitVec 2
  | .running => 0
  | .waitingForKey => 1
  | .haltedFatal => 2

/-- The kinds of fault the CORE raises (R220). -/
inductive FaultKind where
  | decodeFault
  | stackOverflow
  | stackUnderflow
  | pcInvalid
  | iOutOfRange
  | memOutOfRange
  | fontWrite
  | keyIndex
  deriving DecidableEq, Repr

/-- The code of a fault kind (R220, D30; log 23). -/
def FaultKind.code : FaultKind → Nat
  | .decodeFault => 1
  | .stackOverflow => 2
  | .stackUnderflow => 3
  | .pcInvalid => 4
  | .iOutOfRange => 5
  | .memOutOfRange => 6
  | .fontWrite => 7
  | .keyIndex => 8

/-- The fault record (R37). Its `code` is a view of `kind` (R220; log 23). The value is an unbounded integer (R12). -/
structure FaultRecord where
  kind : FaultKind
  /-- the address the faulting instruction was fetched from -/
  faultPc : Word
  /-- its 16-bit word -/
  inst : Word
  /-- the offending value the raising rule names -/
  value : Nat
  deriving DecidableEq, Repr

/-- `code` of the tuple of R37. -/
def FaultRecord.code (r : FaultRecord) : Nat := r.kind.code

/-- Why a step of the MODEL stops. The CORE's own faults are no such stop: the spec describes their entry (R224), so
they are next states (log 8). -/
inductive Fault where
  /-- Raised by `runningStep` alone, in a RUNNING state whose `pc` is not `PcValid`. The spec fetches only with
  `PcValid` (R62) and keeps `pc` valid outside HALTED_FATAL (R24), so no state of the machine is such a state.
  SAFE: the model stops where the spec says nothing (log 9). -/
  | fetchOutsidePcValid
  deriving DecidableEq, Repr

/-- Why the model gives a step no meaning. -/
inductive Refusal where
  /-- Raised by an arm of `exec` for an instruction without a meaning; no arm of this model raises it. SAFE. -/
  | notModelled (mnemonic : String)
  deriving DecidableEq, Repr

/-- Memory `M` (R39, R60): the bytes that differ from what an unlisted address reads as, by rising address. -/
abbrev Memory := List Host.Cell

/-- The whole state of the CORE (R42), with the configuration it was constructed with (R53; log 1) and the inputs of
the coming steps (R46 to R49; log 3). -/
structure State where
  /-- The configuration, which no step changes (R53; log 1). -/
  cfg : Config
  /-- `V0` to `VF` (R20). -/
  v : Vector Byte 16
  /-- `I`, the address register (R23). -/
  i : Word
  /-- `PC` (R24). -/
  pc : Word
  /-- `S[0..15]`, the call stack's slots (R26). -/
  stack : Vector Word 16
  /-- `D`, how many return addresses are held, 0 to 16 (R26; log 22). -/
  depth : Fin 17
  /-- `DT`, the delay timer (R32). -/
  dt : Byte
  /-- `ST`, the sound timer (R32). -/
  st : Byte
  /-- `Pix`: row `r` is entry `r`, column `c` of it is bit `c` (R33; log 24). -/
  display : Vector (BitVec 64) 32
  /-- `K`: `K[k]` is bit `k` (R34, R46). -/
  keys : BitVec 16
  /-- `M[0x000..0xFFF]` (R39). -/
  mem : Memory
  /-- `MODE` (R35). -/
  mode : Mode
  /-- `WAITREG` (R36). -/
  waitReg : Nibble
  /-- `FAULT`, empty or the fault record (R37). -/
  fault : Option FaultRecord
  /-- `ACC`, the virtual-clock accumulator (R38). -/
  acc : Nat
  /-- MODEL'S OWN: the inputs of the coming steps, one entry a step; when none is left, a step takes the free value
  `Config.freeInput draws` (log 3). -/
  inputs : List StepInput
  /-- MODEL'S OWN: how many steps took a free value for their inputs (log 3). -/
  draws : Nat
  deriving DecidableEq, Repr

/-- The machine right after reset, that is after construction (R250) with the default configuration (log 2), fill
`zero` (D21; log 5), an empty program image (log 6) and one idle entry of inputs (log 4). Memory lists nothing: the
font and the zero fill are what unlisted addresses read as (log 7). -/
def State.reset : State where
  cfg := Config.default
  v := Vector.replicate 16 0
  i := 0
  pc := 0x200
  stack := Vector.replicate 16 0
  depth := 0
  dt := 0
  st := 0
  display := Vector.replicate 32 0
  keys := 0
  mem := []
  mode := .running
  waitReg := 0
  fault := none
  acc := 0
  inputs := [StepInput.idle]
  draws := 0

end Sys2Proof.Machine
end

