-- ==== Sys2Proof/Machine/Ops.lean ====
section
/-! DEFINITION. The named operations every meaning is written over: memory, registers, call stack, the checks of the
check phase, fault entry, and the phases of a step around the execute phase (R100 to R114). -/

namespace Sys2Proof.Machine

/-! ### Memory (20_memory.md) -/

/-- What an unlisted address reads as: the reset contents, that is `FONT_DATA` at `FONT_BASE` (R63, R251) and the
fill `zero` elsewhere (R44, D21; log 5, log 7). -/
def Memory.unlisted (cfg : Config) (a : Nat) : Byte :=
  if h : cfg.fontBase.toNat ≤ a ∧ a < cfg.fontBase.toNat + 80 then
    cfg.fontData[a - cfg.fontBase.toNat]'(by omega)
  else 0

/-- The byte at address `a` (R67). A read has no side effect (R72). -/
def Memory.read (cfg : Config) : Memory → Nat → Byte
  | [], a => Memory.unlisted cfg a
  | (k, b) :: m, a => if a = k then b else Memory.read cfg m a

/-- The memory without an entry for `a`. -/
def Memory.erase (m : Memory) (a : Nat) : Memory :=
  m.filter fun c => c.1 != a

/-- The entry `(a, b)` put before the first entry of a higher address. -/
def Memory.insert (a : Nat) (b : Byte) : Memory → Memory
  | [] => [(a, b)]
  | c :: m => if a < c.1 then (a, b) :: c :: m else c :: Memory.insert a b m

/-- `M[a] <- b` (R68), in canonical form: a byte that an unlisted address reads as is not listed. -/
def Memory.write (cfg : Config) (m : Memory) (a : Nat) (b : Byte) : Memory :=
  if b = Memory.unlisted cfg a then Memory.erase m a
  else Memory.insert a b (Memory.erase m a)

/-- Bytes written at rising addresses from `a`. -/
def Memory.writeBytes (cfg : Config) : Memory → Nat → List Byte → Memory
  | m, _, [] => m
  | m, a, b :: bs => Memory.writeBytes cfg (Memory.write cfg m a b) (a + 1) bs

/-- The canonical form: addresses strictly rising, all inside the 4096 bytes of `M` (R60), and no entry that says
what an unlisted address reads as anyway. -/
abbrev Memory.wf (cfg : Config) (m : Memory) : Prop :=
  m.Pairwise (fun c d => c.1 < d.1) ∧ ∀ c ∈ m, c.1 ≤ 0xFFF ∧ c.2 ≠ Memory.unlisted cfg c.1

/-- `M[a]` of a state (R39). -/
def State.readByte (s : State) (a : Nat) : Byte :=
  Memory.read s.cfg s.mem a

/-- The `n` bytes from address `a` upward. -/
def State.readBytes (s : State) : Nat → Nat → List Byte
  | _, 0 => []
  | a, n + 1 => s.readByte a :: s.readBytes (a + 1) n

/-- The state with these bytes stored at rising addresses from `a`. -/
def State.writeBytes (s : State) (a : Nat) (bs : List Byte) : State :=
  { s with mem := Memory.writeBytes s.cfg s.mem a bs }

/-- `Fetch(pc)` (R62): the word at `pc`, big-endian. -/
def State.fetchWord (s : State) : Word :=
  wordOfBytes (s.readByte s.pc.toNat) (s.readByte (s.pc.toNat + 1))

/-- The state with the word `w` stored at `pc`, big-endian, as the loader would store it (R252). -/
def State.placeWord (s : State) (w : Word) : State :=
  s.writeBytes s.pc.toNat [highByte w, lowByte w]

/-! ### Registers (10_state.md) -/

/-- `V[x]` (R13, R20). -/
def State.reg (s : State) (x : Nibble) : Byte :=
  s.v[x.toNat]'x.isLt

/-- `V[x] <- b` (R13, R20). -/
def State.setReg (s : State) (x : Nibble) (b : Byte) : State :=
  { s with v := s.v.set x.toNat b x.isLt }

/-- `V[0..x]` (R174). -/
def State.regsUpTo (s : State) (x : Nibble) : List Byte :=
  s.v.toList.take (x.toNat + 1)

/-- `V[j] <- M[a + j]` for every `j` from 0 to `x` (R175). -/
def State.loadRegs (s : State) (a : Nat) (x : Nibble) : State :=
  { s with v := Vector.ofFn fun j : Fin 16 => if j.val ≤ x.toNat then s.readByte (a + j.val) else s.v[j.val] }

/-- `I <- a` (R23). -/
def State.setI (s : State) (a : Word) : State := { s with i := a }

/-- `pc <- p` (R24). -/
def State.setPc (s : State) (p : Word) : State := { s with pc := p }

/-- `DT <- b` (R32). -/
def State.setDt (s : State) (b : Byte) : State := { s with dt := b }

/-- `ST <- b` (R32). -/
def State.setSt (s : State) (b : Byte) : State := { s with st := b }

/-- The whole display replaced (R33). -/
def State.setDisplay (s : State) (d : Vector (BitVec 64) 32) : State := { s with display := d }

/-- `Pix(c, r)` (R33). -/
def State.pixel (s : State) (c : Fin 64) (r : Fin 32) : Bool :=
  s.display[r].getLsbD c

/-- `K[k]` (R34). -/
def State.key (s : State) (k : Nibble) : Bool :=
  s.keys.getLsbD k.toNat

/-- `SP`, the index of the top entry, defined when the stack is not empty (R27, C1). -/
def State.sp (s : State) : Option Nat :=
  if s.depth.val = 0 then none else some (s.depth.val - 1)

/-- Output `TONE` (R51). -/
def State.tone (s : State) : Bool :=
  decide (0 < s.st.toNat)

/-! ### Faults (60_exceptions.md) -/

/-- What `raise Fault(kind, value)` names (R13). -/
structure Raise where
  kind : FaultKind
  value : Nat
  deriving DecidableEq, Repr

/-- FAULT ENTRY, the one shared operation (R114, R224), on the state as it was BEFORE the step, so that every effect
of the step is discarded: `MODE <- HALTED_FATAL` and the record of kind, fetch address, word and value. There is no
vector and no return from it (R225). -/
def State.halt (s : State) (r : Raise) : State :=
  { s with
    mode := .haltedFatal
    fault := some { kind := r.kind, faultPc := s.pc, inst := s.fetchWord, value := r.value } }

/-- The check of `MemRead(a, 1)` (R67, D10). -/
def checkRead (a : Nat) : Option Raise :=
  if 0xFFF < a then some ⟨.memOutOfRange, a⟩ else none

/-- The check of `MemWrite(a, 1, _)` (R68, R65, D10, D11). -/
def checkWrite (cfg : Config) (a : Nat) : Option Raise :=
  if 0xFFF < a then some ⟨.memOutOfRange, a⟩
  else if a ≤ 0x1FF ∧ cfg.fontWritePolicy = .fault then some ⟨.fontWrite, a⟩
  else none

/-- The check of the `n` addresses from `a` upward: the lowest failing address is reported (R68, R223). -/
def checkSpan (check : Nat → Option Raise) : Nat → Nat → Option Raise
  | _, 0 => none
  | a, n + 1 =>
    match check a with
    | some r => some r
    | none => checkSpan check (a + 1) n

/-- The check phase before the write phase (R14): the write phase's state, unless a check raises. -/
def afterCheck (check : Option Raise) (t : State) : Except Raise State :=
  match check with
  | some r => .error r
  | none => .ok t

/-! ### The call stack (10_state.md) -/

/-- `Push(p)` (R28). -/
def State.push (s : State) (p : Word) : Except Raise State :=
  if h : s.depth.val < 16 then
    .ok { s with stack := s.stack.set s.depth.val p h, depth := ⟨s.depth.val + 1, by omega⟩ }
  else .error ⟨.stackOverflow, p.toNat⟩

/-- `Pop()` (R29): the popped address and the state; the slot keeps its contents. -/
def State.pop (s : State) : Except Raise (Word × State) :=
  if h : 0 < s.depth.val then
    .ok (s.stack[s.depth.val - 1]'(by omega), { s with depth := ⟨s.depth.val - 1, by omega⟩ })
  else .error ⟨.stackUnderflow, 0⟩

/-! ### The phases of a step (40_cycle.md) -/

/-- `PcValid(p)` (R24). -/
abbrev PcValid (p : Word) : Prop :=
  p.toNat % 2 = 0 ∧ 0x200 ≤ p.toNat ∧ p.toNat ≤ 0xFFE

/-- The inputs of the coming step: the listed ones, else a free value (R45 to R49; log 3). -/
def State.nextInput (s : State) : StepInput :=
  match s.inputs with
  | [] => Config.freeInput s.draws
  | inp :: _ => inp

/-- The state after a step has taken its inputs (log 3). -/
def State.takeInput (s : State) : State :=
  match s.inputs with
  | [] => { s with draws := s.draws + 1 }
  | _ :: rest => { s with inputs := rest }

/-- The step takes its inputs and `K <- KEYS` (R34, R46, R100). -/
def State.sample (s : State) : State :=
  { s.takeInput with keys := s.nextInput.keys }

/-- The state the execute phase of a RUNNING step starts from: inputs sampled (R100), `pc` advanced to `a + 2`
(R25, R103). -/
def State.enter (s : State) : State :=
  { s.sample with pc := s.pc + 2 }

/-- `k`, the 1/60 s boundaries crossed in this step (R107). -/
def State.boundaries (s : State) : Nat :=
  (s.acc + 60) / s.cfg.clockHz

/-- A timer after `k` ticks: it floors at 0 (R108, R109). -/
def tickTimer (b : Byte) (k : Nat) : Byte :=
  BitVec.ofNat 8 (b.toNat - k)

/-- The virtual clock advances and the timers tick (R107, R108, D18; log 14). -/
def State.tick (s : State) : State :=
  { s with
    acc := (s.acc + 60) % s.cfg.clockHz
    dt := tickTimer s.dt s.boundaries
    st := tickTimer s.st s.boundaries }

/-- The rest of a RUNNING step after its decode: the execute phase `body` on the entered state, the `pc` check (R106),
the clock (R107, R108); a raise in any phase is fault entry on the state before the step (R114). -/
def perform (s : State) (body : State → Except Raise State) : Host.Outcome State Fault Refusal :=
  match body s.enter with
  | .error r => .next (s.halt r)
  | .ok t => if PcValid t.pc then .next t.tick else .next (s.halt ⟨.pcInvalid, t.pc.toNat⟩)

/-- A skip (R120): `pc <- pc + 2` when the condition holds. -/
def State.skipIf (s : State) (c : Bool) : State :=
  if c then s.setPc (s.pc + 2) else s

/-- `WAITREG <- x` and `MODE <- WAITING_FOR_KEY` (R204). -/
def State.await (s : State) (x : Nibble) : State :=
  { s with waitReg := x, mode := .waitingForKey }

/-- `V[WAITREG] <- zext_8(KEV_CODE)` and `MODE <- RUNNING` (R111). -/
def State.deliver (s : State) (code : Nibble) : State :=
  { s.setReg s.waitReg (code.setWidth 8) with mode := .running }

/-- A step that begins in HALTED_FATAL changes nothing (R113). -/
def haltedStep (s : State) : Host.Outcome State Fault Refusal :=
  .next s

/-- A step that begins in WAITING_FOR_KEY (R110, R111): no fetch; an event is delivered; the clock advances. -/
def waitingStep (s : State) : Host.Outcome State Fault Refusal :=
  match s.nextInput.event with
  | none => .next s.sample.tick
  | some code => .next (s.sample.deliver code).tick

/-- A step that begins in RUNNING (R101 to R104): fetch, decode, then `run` for the rest. A word that decodes to no
instruction is the fault DecodeFault (R93, R104). -/
def runningStep (run : Instr → State → Host.Outcome State Fault Refusal) (s : State) :
    Host.Outcome State Fault Refusal :=
  if PcValid s.pc then
    match decodeWord s.fetchWord with
    | .ok i => run i s
    | .error _ => .next (s.halt ⟨.decodeFault, s.fetchWord.toNat⟩)
  else .fault .fetchOutsidePcValid

end Sys2Proof.Machine
end

