-- ==== Sys2Proof/Machine/Operands.lean ====
section
/-! DEFINITION. The operand forms (R82, R176): zero-extended immediates, the shift source, the keypad index, the
addresses and digits of the memory instructions. -/

namespace Sys2Proof.Machine

/-- `zext_16(nnn)` (R82, R122, R123, R170). -/
def zextAddr (nnn : Addr) : Word :=
  nnn.setWidth 16

/-- The target of `Bnnn` (R128): `nnn + V0`, at most 0x10FE, so nothing is lost in 16 bits. -/
def offsetTarget (nnn : Addr) (v0 : Byte) : Word :=
  BitVec.ofNat 16 (nnn.toNat + v0.toNat)

/-- The shift source (R149, R151, R10): `V[y]` under `QUIRK_SHIFT_USES_VY`, else `V[x]`. -/
def State.shiftSource (s : State) (x y : Nibble) : Byte :=
  if s.cfg.shiftUsesVy then s.reg y else s.reg x

/-- `KeyIndex(v)` (R202, D12). -/
def keyIndex (cfg : Config) (b : Byte) : Except Raise Nibble :=
  if b.toNat ≤ 0xF then .ok (b.setWidth 4)
  else
    match cfg.keyIndexPolicy with
    | .fault => .error ⟨.keyIndex, b.toNat⟩
    | .mask => .ok (b.setWidth 4)

/-- The glyph address of the digit `v mod 16` (R172). -/
def fontAddress (cfg : Config) (b : Byte) : Word :=
  BitVec.ofNat 16 (cfg.fontBase.toNat + 5 * (b.toNat % 16))

/-- The three decimal digits of a byte, hundreds first (R69, R173). -/
def bcdDigits (b : Byte) : List Byte :=
  [BitVec.ofNat 8 (b.toNat / 100), BitVec.ofNat 8 (b.toNat / 10 % 10), BitVec.ofNat 8 (b.toNat % 10)]

/-- `I + x + 1`, the value `Fx55` and `Fx65` give `I` under the quirk (R174, R175). -/
def State.incrementedI (s : State) (x : Nibble) : Nat :=
  s.i.toNat + x.toNat + 1

/-- The check of that value (R174, R175): IOutOfRange under the quirk. -/
def State.checkIncrement (s : State) (x : Nibble) : Option Raise :=
  if s.cfg.loadStoreIncrementsI = true ∧ 0xFFF < s.incrementedI x then
    some ⟨.iOutOfRange, s.incrementedI x⟩
  else none

/-- `I <- I + x + 1` under the quirk, else `I` unchanged (R174, R175, D16, C9). -/
def State.incrementI (s : State) (x : Nibble) : State :=
  if s.cfg.loadStoreIncrementsI then s.setI (BitVec.ofNat 16 (s.incrementedI x)) else s

end Sys2Proof.Machine
end

