-- ==== Sys2Proof/Machine/Flags.lean ====
section
/-! DEFINITION. Every flag computation of R30, from the exact result (R140), and the flag write, which comes after the
result write (R31, D14; log 17). -/

namespace Sys2Proof.Machine

/-- A flag as `VF` holds it: 1 or 0 (R30). -/
def flagByte (f : Bool) : Byte :=
  if f then 1 else 0

/-- `VF <- f` (R21, R30). -/
def State.setFlag (s : State) (f : Bool) : State :=
  s.setReg 0xF (flagByte f)

/-- `V[x] <- result`, then `VF <- flag` (R31, R140). -/
def State.setResult (s : State) (x : Nibble) (result : Byte) (flag : Bool) : State :=
  (s.setReg x result).setFlag flag

/-- Carry of `8xy4`: the exact sum is above 255 (R30, R147). -/
def carry (a b : Byte) : Bool :=
  decide (255 < a.toNat + b.toNat)

/-- Not-borrow of `a - b` (R30, R148, R150). -/
def notBorrow (a b : Byte) : Bool :=
  decide (b.toNat ≤ a.toNat)

/-- Bit 0 of the shift source, shifted out to the right (R30, R149). -/
def shiftOutRight (src : Byte) : Bool :=
  src.getLsbD 0

/-- Bit 7 of the shift source, shifted out to the left (R30, R151). -/
def shiftOutLeft (src : Byte) : Bool :=
  src.getLsbD 7

/-- `VF` of `Fx1E` under the quirk: the sum is above 0xFFF (R30, R171, C3). -/
def addressOverflow (sum : Nat) : Bool :=
  decide (0xFFF < sum)

/-- Collision of one sprite row (R194): a drawn pixel was set before, so drawing it turns it off. -/
def rowCollides (row mask : BitVec 64) : Bool :=
  row &&& mask != 0

end Sys2Proof.Machine
end

