-- ==== Sys2Proof/Machine/Address.lean ====
section
/-! DEFINITION. Address register, font address, BCD, register dump and load (43_address_memory.md). -/

namespace Sys2Proof.Machine

/-- `LD I, nnn` (R170). -/
def execLdI (nnn : Addr) (s : State) : Host.Outcome State Fault Refusal :=
  perform s fun w => .ok (w.setI (zextAddr nnn))

/-- `I + Vx` as an unbounded integer (R171). -/
def State.addressSum (s : State) (x : Nibble) : Nat :=
  s.i.toNat + (s.reg x).toNat

/-- `ADD I, Vx` (R171, C3, D17; log 20): a sum above 0xFFF raises IOutOfRange in both settings of the quirk. -/
def execAddI (x : Nibble) (s : State) : Host.Outcome State Fault Refusal :=
  perform s fun w =>
    if 0xFFF < w.addressSum x then .error ⟨.iOutOfRange, w.addressSum x⟩
    else if w.cfg.addISetsVf then
      .ok ((w.setI (BitVec.ofNat 16 (w.addressSum x))).setFlag (addressOverflow (w.addressSum x)))
    else .ok (w.setI (BitVec.ofNat 16 (w.addressSum x)))

/-- `LD F, Vx` (R172). -/
def execLdF (x : Nibble) (s : State) : Host.Outcome State Fault Refusal :=
  perform s fun w => .ok (w.setI (fontAddress w.cfg (w.reg x)))

/-- `LD B, Vx` (R173): all three addresses are checked before any byte is written. -/
def execLdB (x : Nibble) (s : State) : Host.Outcome State Fault Refusal :=
  perform s fun w =>
    afterCheck (checkSpan (checkWrite w.cfg) w.i.toNat 3) (w.writeBytes w.i.toNat (bcdDigits (w.reg x)))

/-- `LD [I], Vx` (R174): the addresses, then the increment, are checked before any write. -/
def execDump (x : Nibble) (s : State) : Host.Outcome State Fault Refusal :=
  perform s fun w =>
    afterCheck ((checkSpan (checkWrite w.cfg) w.i.toNat (x.toNat + 1)).or (w.checkIncrement x))
      ((w.writeBytes w.i.toNat (w.regsUpTo x)).incrementI x)

/-- `LD Vx, [I]` (R175): the addresses, then the increment, are checked before any write. -/
def execLoad (x : Nibble) (s : State) : Host.Outcome State Fault Refusal :=
  perform s fun w =>
    afterCheck ((checkSpan checkRead w.i.toNat (x.toNat + 1)).or (w.checkIncrement x))
      ((w.loadRegs w.i.toNat x).incrementI x)

end Sys2Proof.Machine
end

