-- ==== Sys2Proof/Machine/Alu.lean ====
section
/-! DEFINITION. Register loads, arithmetic, logic, shifts and random (42_alu.md). Every source is read from the entered
state `w`, the result is written first and the flag last (R140). -/

namespace Sys2Proof.Machine

/-- `LD Vx, kk` (R141). -/
def execLdImm (x : Nibble) (kk : Byte) (s : State) : Host.Outcome State Fault Refusal :=
  perform s fun w => .ok (w.setReg x kk)

/-- `ADD Vx, kk` (R142): modulo 256, no flag. -/
def execAddImm (x : Nibble) (kk : Byte) (s : State) : Host.Outcome State Fault Refusal :=
  perform s fun w => .ok (w.setReg x (w.reg x + kk))

/-- `LD Vx, Vy` (R143). -/
def execLdReg (x y : Nibble) (s : State) : Host.Outcome State Fault Refusal :=
  perform s fun w => .ok (w.setReg x (w.reg y))

/-- `OR Vx, Vy` (R144): `VF` is not reset. -/
def execOrReg (x y : Nibble) (s : State) : Host.Outcome State Fault Refusal :=
  perform s fun w => .ok (w.setReg x (w.reg x ||| w.reg y))

/-- `AND Vx, Vy` (R145). -/
def execAndReg (x y : Nibble) (s : State) : Host.Outcome State Fault Refusal :=
  perform s fun w => .ok (w.setReg x (w.reg x &&& w.reg y))

/-- `XOR Vx, Vy` (R146). -/
def execXorReg (x y : Nibble) (s : State) : Host.Outcome State Fault Refusal :=
  perform s fun w => .ok (w.setReg x (w.reg x ^^^ w.reg y))

/-- `ADD Vx, Vy` (R147). -/
def execAddReg (x y : Nibble) (s : State) : Host.Outcome State Fault Refusal :=
  perform s fun w => .ok (w.setResult x (w.reg x + w.reg y) (carry (w.reg x) (w.reg y)))

/-- `SUB Vx, Vy` (R148). -/
def execSubReg (x y : Nibble) (s : State) : Host.Outcome State Fault Refusal :=
  perform s fun w => .ok (w.setResult x (w.reg x - w.reg y) (notBorrow (w.reg x) (w.reg y)))

/-- `SHR Vx, Vy` (R149). -/
def execShrReg (x y : Nibble) (s : State) : Host.Outcome State Fault Refusal :=
  perform s fun w => .ok (w.setResult x (w.shiftSource x y >>> 1) (shiftOutRight (w.shiftSource x y)))

/-- `SUBN Vx, Vy` (R150). -/
def execSubnReg (x y : Nibble) (s : State) : Host.Outcome State Fault Refusal :=
  perform s fun w => .ok (w.setResult x (w.reg y - w.reg x) (notBorrow (w.reg y) (w.reg x)))

/-- `SHL Vx, Vy` (R151). -/
def execShlReg (x y : Nibble) (s : State) : Host.Outcome State Fault Refusal :=
  perform s fun w => .ok (w.setResult x (w.shiftSource x y <<< 1) (shiftOutLeft (w.shiftSource x y)))

/-- `RND Vx, kk` (R152): the draw is this step's input `RAND` (R49), on which there is no law (D27; log 3). -/
def execRnd (x : Nibble) (kk : Byte) (s : State) : Host.Outcome State Fault Refusal :=
  perform s fun w => .ok (w.setReg x (s.nextInput.rand &&& kk))

end Sys2Proof.Machine
end

