-- ==== Sys2Proof/Machine/Control.lean ====
section
/-! DEFINITION. Control transfer and skips (41_control_flow.md). In an execute phase `w.pc` is `a + 2` (R25). -/

namespace Sys2Proof.Machine

/-- `RET` (R121). -/
def execRet (s : State) : Host.Outcome State Fault Refusal :=
  perform s fun w =>
    match w.pop with
    | .ok (p, t) => .ok (t.setPc p)
    | .error r => .error r

/-- `JP nnn` (R122). -/
def execJp (nnn : Addr) (s : State) : Host.Outcome State Fault Refusal :=
  perform s fun w => .ok (w.setPc (zextAddr nnn))

/-- `CALL nnn` (R123): StackOverflow's value is the return address `a + 2`. -/
def execCall (nnn : Addr) (s : State) : Host.Outcome State Fault Refusal :=
  perform s fun w =>
    match w.push w.pc with
    | .ok t => .ok (t.setPc (zextAddr nnn))
    | .error r => .error r

/-- `SE Vx, kk` (R124). -/
def execSeImm (x : Nibble) (kk : Byte) (s : State) : Host.Outcome State Fault Refusal :=
  perform s fun w => .ok (w.skipIf (w.reg x == kk))

/-- `SNE Vx, kk` (R125). -/
def execSneImm (x : Nibble) (kk : Byte) (s : State) : Host.Outcome State Fault Refusal :=
  perform s fun w => .ok (w.skipIf (w.reg x != kk))

/-- `SE Vx, Vy` (R126). -/
def execSeReg (x y : Nibble) (s : State) : Host.Outcome State Fault Refusal :=
  perform s fun w => .ok (w.skipIf (w.reg x == w.reg y))

/-- `SNE Vx, Vy` (R127). -/
def execSneReg (x y : Nibble) (s : State) : Host.Outcome State Fault Refusal :=
  perform s fun w => .ok (w.skipIf (w.reg x != w.reg y))

/-- `JP V0, nnn` (R128). -/
def execJpV0 (nnn : Addr) (s : State) : Host.Outcome State Fault Refusal :=
  perform s fun w => .ok (w.setPc (offsetTarget nnn (w.reg 0x0)))

end Sys2Proof.Machine
end

