-- ==== Sys2Proof/Machine/Display.lean ====
section
/-! DEFINITION. Clear and XOR-draw with collision (44_display.md). Column `c` of a row is bit `c` of its word (log 24). -/

namespace Sys2Proof.Machine

/-- `CLS` (R190). -/
def execCls (s : State) : Host.Outcome State Fault Refusal :=
  perform s fun w => .ok (w.setDisplay (Vector.replicate 32 0))

/-- The columns one sprite byte draws from column `x0` (R192, R193): bit 7 at `x0`, bit 6 at `x0 + 1` and so on, and
what falls past column 63 is dropped. Reversed, the byte has its bit 7 in place 0. -/
def spriteMask (x0 : Nat) (b : Byte) : BitVec 64 :=
  b.reverse.setWidth 64 <<< x0

/-- The sprite's rows drawn from display row `y` downward, each wrapped on its own to `y mod 32` (R191, R193): the
display after them and whether any row collided (R194). -/
def drawRows (d : Vector (BitVec 64) 32) (x0 : Nat) : Nat → List Byte → Vector (BitVec 64) 32 × Bool
  | _, [] => (d, false)
  | y, b :: bs =>
    let row := d[y % 32]'(Nat.mod_lt y (by decide))
    let rest := drawRows (d.set (y % 32) (row ^^^ spriteMask x0 b) (Nat.mod_lt y (by decide))) x0 (y + 1) bs
    (rest.1, rowCollides row (spriteMask x0 b) || rest.2)

/-- The sprite `bs` drawn at `(Vx mod 64, Vy mod 32)`, then `VF <- hit` (R191). -/
def State.draw (s : State) (x y : Nibble) (bs : List Byte) : State :=
  let r := drawRows s.display ((s.reg x).toNat % 64) ((s.reg y).toNat % 32) bs
  (s.setDisplay r.1).setFlag r.2

/-- `DRW Vx, Vy, n` (R191): all `n` reads are checked before any pixel changes; `n = 0` draws nothing (R195). -/
def execDrw (x y n : Nibble) (s : State) : Host.Outcome State Fault Refusal :=
  perform s fun w =>
    afterCheck (checkSpan checkRead w.i.toNat n.toNat) (w.draw x y (w.readBytes w.i.toNat n.toNat))

end Sys2Proof.Machine
end

