-- ==== Sys2Proof/Machine/Keypad.lean ====
section
/-! DEFINITION. Keypad and timer instructions (45_timers_keypad.md). -/

namespace Sys2Proof.Machine

/-- `SKP Vx` (R200, R202). -/
def execSkp (x : Nibble) (s : State) : Host.Outcome State Fault Refusal :=
  perform s fun w =>
    match keyIndex w.cfg (w.reg x) with
    | .ok k => .ok (w.skipIf (w.key k))
    | .error r => .error r

/-- `SKNP Vx` (R201, R202). -/
def execSknp (x : Nibble) (s : State) : Host.Outcome State Fault Refusal :=
  perform s fun w =>
    match keyIndex w.cfg (w.reg x) with
    | .ok k => .ok (w.skipIf (!w.key k))
    | .error r => .error r

/-- `LD Vx, DT` (R203): the value before this step's tick (R108, R258). -/
def execLdVxDt (x : Nibble) (s : State) : Host.Outcome State Fault Refusal :=
  perform s fun w => .ok (w.setReg x w.dt)

/-- `LD Vx, K` (R204): the wait begins; a key event of this same step is ignored (R112). -/
def execLdVxK (x : Nibble) (s : State) : Host.Outcome State Fault Refusal :=
  perform s fun w => .ok (w.await x)

/-- `LD DT, Vx` (R205): this step's tick applies to the new value (R108). -/
def execLdDtVx (x : Nibble) (s : State) : Host.Outcome State Fault Refusal :=
  perform s fun w => .ok (w.setDt (w.reg x))

/-- `LD ST, Vx` (R206): this step's tick applies to the new value (R108). -/
def execLdStVx (x : Nibble) (s : State) : Host.Outcome State Fault Refusal :=
  perform s fun w => .ok (w.setSt (w.reg x))

end Sys2Proof.Machine
end

