-- ==== Sys2Proof/Machine/Step.lean ====
section
/-! DEFINITION. One step (R100): what it does is chosen by `MODE`. And the state with a given word where the next step
fetches. -/

namespace Sys2Proof.Machine

/-- One assertion of `STEP` (R45, R100). -/
def step (s : State) : Host.Outcome State Fault Refusal :=
  match s.mode with
  | .haltedFatal => haltedStep s
  | .waitingForKey => waitingStep s
  | .running => runningStep exec s

/-- `s` with the word `w` of a table row stored at `pc`. A step fetches only in mode RUNNING (R100), so the mode is set to
RUNNING, and the fault record, which is empty then (R37), is emptied; in the state after reset both are so already.
This stands for the load of a program by the outside (R252; log 6). -/
def State.withFetchWord (s : State) (nbits w : Nat) : State :=
  { s.placeWord (BitVec.ofNat 16 (w % 2 ^ nbits)) with mode := .running, fault := none }

end Sys2Proof.Machine
end

