-- ==== Sys2Proof/WellFormed.lean ====
section
/-! DEFINITION. What must be checked before a value is meaningful. The widths of all operands are in their types
(R81, R92) and no instruction has a field that must be zero beyond its sub-opcode bits (R90), so every term of
`Instr` is well formed and only the premises of construction (R9, R252) are checks. -/

namespace Sys2Proof

/-- Every instruction term is well formed: operand widths are types, and any value of a free field decodes to the
same instruction (R90, R92). -/
abbrev Instr.WellFormed (_ : Instr) : Prop := True

/-- A valid configuration (R9): the ranges of `CLOCK_HZ` and `FONT_BASE`. ConfigFault, the collaborator's answer to
any other, is outside the CORE (R221). -/
abbrev Config.WellFormed (c : Config) : Prop :=
  1 ≤ c.clockHz ∧ c.clockHz ≤ 1000000 ∧ c.fontBase.toNat + 80 ≤ 0x200

/-- A loadable program image (R252): at most 3584 bytes. LoadFault, the loader's answer to a longer one, is outside
the CORE (R221). -/
abbrev ImageFits (image : List Byte) : Prop := image.length ≤ 3584

end Sys2Proof
end

