-- ==== Sys2Proof/Machine/Construct.lean ====
section
/-! DEFINITION. Construction, which is the CORE's reset (R250): any valid configuration, either setting of `RESET_FILL`
(R9, R44), the font (R251) and a program image (R252). `State.reset` is one such construction. -/

namespace Sys2Proof.Machine

/-- The values of the components that `RESET_FILL = arbitrary` leaves open (R44). -/
structure FillValues where
  v : Vector Byte 16
  /-- arbitrary in 0x000 to 0xFFF -/
  i : Addr
  stack : Vector Word 16
  dt : Byte
  st : Byte
  display : Vector (BitVec 64) 32
  /-- the memory bytes that are not 0; cells outside the 4096 addresses are ignored -/
  mem : List Host.Cell
  deriving DecidableEq, Repr

/-- `RESET_FILL` (R9, D21). -/
inductive ResetFill where
  | zero
  | arbitrary (values : FillValues)
  deriving DecidableEq, Repr

/-- The fill `zero`. -/
def FillValues.zero : FillValues where
  v := Vector.replicate 16 0
  i := 0
  stack := Vector.replicate 16 0
  dt := 0
  st := 0
  display := Vector.replicate 32 0
  mem := []

/-- The values a setting of `RESET_FILL` gives. -/
def ResetFill.values : ResetFill → FillValues
  | .zero => FillValues.zero
  | .arbitrary f => f

/-- The fill of the memory (R44), before the font and the image are written over it. -/
def Memory.fill (cfg : Config) : Memory → List Host.Cell → Memory
  | m, [] => m
  | m, c :: cs => Memory.fill cfg (if c.1 ≤ 0xFFF then Memory.write cfg m c.1 c.2 else m) cs

/-- Memory after construction: the fill, then `FONT_DATA` at `FONT_BASE` (R251), then the image from 0x200 (R252). -/
def Memory.construct (cfg : Config) (cells : List Host.Cell) (image : List Byte) : Memory :=
  Memory.writeBytes cfg
    (Memory.writeBytes cfg (Memory.fill cfg [] cells) cfg.fontBase.toNat cfg.fontData.toList) 0x200 image

/-- Construction (R44, R250): every component at its reset value, with the inputs of the coming steps; `none` where the
collaborators report a ConfigFault or LoadFault and no CORE is constructed (R221, R252). -/
def State.construct (cfg : Config) (fill : ResetFill) (image : List Byte) (inputs : List StepInput) : Option State :=
  if cfg.WellFormed ∧ ImageFits image then
    some {
      cfg := cfg
      v := fill.values.v
      i := fill.values.i.setWidth 16
      pc := 0x200
      stack := fill.values.stack
      depth := 0
      dt := fill.values.dt
      st := fill.values.st
      display := fill.values.display
      keys := 0
      mem := Memory.construct cfg fill.values.mem image
      mode := .running
      waitReg := 0
      fault := none
      acc := 0
      inputs := inputs
      draws := 0 }
  else none

end Sys2Proof.Machine
end

