-- ==== Sys2Proof/Safety.lean ====
section
/-! DEFINITION. What counts as a good state and what each instruction may change, in the terms the statements use. -/

namespace Sys2Proof

/-- The general registers an instruction writes in its own step (R22); `Fx0A` writes its register in the later step
that delivers the key (R111). -/
def Instr.writesReg (cfg : Config) (r : Nibble) : Instr → Bool
  | .ldImm x _ | .addImm x _ | .ldReg x _ | .orReg x _ | .andReg x _ | .xorReg x _ | .rnd x _ | .ldVxDt x => r == x
  | .addReg x _ | .subReg x _ | .shrReg x _ | .subnReg x _ | .shlReg x _ => r == x || r == 0xF
  | .drw _ _ _ => r == 0xF
  | .load x => decide (r.toNat ≤ x.toNat)
  | .addI _ => cfg.addISetsVf && r == 0xF
  | .cls | .ret | .jp _ | .call _ | .seImm _ _ | .sneImm _ _ | .seReg _ _ | .sneReg _ _ | .ldI _ | .jpV0 _
  | .skp _ | .sknp _ | .ldVxK _ | .ldDtVx _ | .ldStVx _ | .ldF _ | .ldB _ | .dump _ => false

/-- The instructions that write `I` (R23). -/
def Instr.writesI (cfg : Config) : Instr → Bool
  | .ldI _ | .addI _ | .ldF _ => true
  | .dump _ | .load _ => cfg.loadStoreIncrementsI
  | .cls | .ret | .jp _ | .call _ | .seImm _ _ | .sneImm _ _ | .seReg _ _ | .sneReg _ _ | .ldImm _ _ | .addImm _ _
  | .ldReg _ _ | .orReg _ _ | .andReg _ _ | .xorReg _ _ | .addReg _ _ | .subReg _ _ | .shrReg _ _ | .subnReg _ _
  | .shlReg _ _ | .jpV0 _ | .rnd _ _ | .drw _ _ _ | .skp _ | .sknp _ | .ldVxDt _ | .ldVxK _ | .ldDtVx _
  | .ldStVx _ | .ldB _ => false

/-- How many bytes an instruction stores, at the addresses from `I` upward (R71). -/
def Instr.storedBytes : Instr → Nat
  | .ldB _ => 3
  | .dump x => x.toNat + 1
  | .cls | .ret | .jp _ | .call _ | .seImm _ _ | .sneImm _ _ | .seReg _ _ | .sneReg _ _ | .ldImm _ _ | .addImm _ _
  | .ldReg _ _ | .orReg _ _ | .andReg _ _ | .xorReg _ _ | .addReg _ _ | .subReg _ _ | .shrReg _ _ | .subnReg _ _
  | .shlReg _ _ | .ldI _ | .jpV0 _ | .rnd _ _ | .drw _ _ _ | .skp _ | .sknp _ | .ldVxDt _ | .ldVxK _ | .ldDtVx _
  | .ldStVx _ | .addI _ | .ldF _ | .load _ => 0

/-- The instructions that leave `pc` at `a + 2` (R25): all but jumps, calls, returns and skips. -/
def Instr.sequential : Instr → Bool
  | .ret | .jp _ | .call _ | .seImm _ _ | .sneImm _ _ | .seReg _ _ | .sneReg _ _ | .jpV0 _ | .skp _ | .sknp _ => false
  | .cls | .ldImm _ _ | .addImm _ _ | .ldReg _ _ | .orReg _ _ | .andReg _ _ | .xorReg _ _ | .addReg _ _ | .subReg _ _
  | .shrReg _ _ | .subnReg _ _ | .shlReg _ _ | .ldI _ | .rnd _ _ | .drw _ _ _ | .ldVxDt _ | .ldVxK _ | .ldDtVx _
  | .ldStVx _ | .addI _ | .ldF _ | .ldB _ | .dump _ | .load _ => true

/-- The instructions that raise no fault but `PcInvalid` past the last slot (R222), the skips apart: `CLS`, the plain
loads and the arithmetic, family 8, `LD I`, `RND`, the timer and wait instructions and `LD F`. -/
def Instr.faultsOnlyPastTheEnd : Instr → Bool
  | .cls | .ldImm _ _ | .addImm _ _ | .ldReg _ _ | .orReg _ _ | .andReg _ _ | .xorReg _ _ | .addReg _ _ | .subReg _ _
  | .shrReg _ _ | .subnReg _ _ | .shlReg _ _ | .ldI _ | .rnd _ _ | .ldVxDt _ | .ldVxK _ | .ldDtVx _ | .ldStVx _
  | .ldF _ => true
  | .ret | .jp _ | .call _ | .seImm _ _ | .sneImm _ _ | .seReg _ _ | .sneReg _ _ | .jpV0 _ | .skp _ | .sknp _
  | .drw _ _ _ | .addI _ | .ldB _ | .dump _ | .load _ => false

/-- The instructions that touch the call stack (R26). -/
def Instr.usesStack : Instr → Bool
  | .ret | .call _ => true
  | .cls | .jp _ | .seImm _ _ | .sneImm _ _ | .seReg _ _ | .sneReg _ _ | .jpV0 _ | .skp _ | .sknp _ | .ldImm _ _
  | .addImm _ _ | .ldReg _ _ | .orReg _ _ | .andReg _ _ | .xorReg _ _ | .addReg _ _ | .subReg _ _ | .shrReg _ _
  | .subnReg _ _ | .shlReg _ _ | .ldI _ | .rnd _ _ | .drw _ _ _ | .ldVxDt _ | .ldVxK _ | .ldDtVx _ | .ldStVx _
  | .addI _ | .ldF _ | .ldB _ | .dump _ | .load _ => false

/-- The instructions that write the display (R33, R50). -/
def Instr.writesDisplay : Instr → Bool
  | .cls | .drw _ _ _ => true
  | .ret | .jp _ | .call _ | .seImm _ _ | .sneImm _ _ | .seReg _ _ | .sneReg _ _ | .jpV0 _ | .skp _ | .sknp _
  | .ldImm _ _ | .addImm _ _ | .ldReg _ _ | .orReg _ _ | .andReg _ _ | .xorReg _ _ | .addReg _ _ | .subReg _ _
  | .shrReg _ _ | .subnReg _ _ | .shlReg _ _ | .ldI _ | .rnd _ _ | .ldVxDt _ | .ldVxK _ | .ldDtVx _ | .ldStVx _
  | .addI _ | .ldF _ | .ldB _ | .dump _ | .load _ => false

namespace Machine

/-- The invariants of the CORE (R43, with R9, R37, R38 and the canonical form of memory). `0 <= D <= 16` and
`DT, ST >= 0` hold by the types of the fields. -/
abbrev State.Inv (s : State) : Prop :=
  s.cfg.WellFormed ∧ Memory.wf s.cfg s.mem ∧ s.acc < s.cfg.clockHz ∧
  (s.fault.isSome = true ↔ s.mode = .haltedFatal) ∧
  (s.mode ≠ .haltedFatal → PcValid s.pc ∧ s.i.toNat ≤ 0xFFF)

/-- The words of no instruction, space by space as R93 lists them. -/
abbrev Undecoded (w : Word) : Prop :=
  (opField w = 0x0 ∧ w ≠ 0x00E0 ∧ w ≠ 0x00EE) ∨
  ((opField w = 0x5 ∨ opField w = 0x9) ∧ nField w ≠ 0) ∨
  (opField w = 0x8 ∧ nField w ∈ [0x8, 0x9, 0xA, 0xB, 0xC, 0xD, 0xF]) ∨
  (opField w = 0xE ∧ kkField w ∉ [0x9E, 0xA1]) ∨
  (opField w = 0xF ∧ kkField w ∉ [0x07, 0x0A, 0x15, 0x18, 0x1E, 0x29, 0x33, 0x55, 0x65])

/-- The sprite of `DRW Vx, Vy, n` has a set bit on pixel `(c, r)`: some row `k` of it lands on display row `r`, wrapped
(R193), and its bit `7 - (c - x0)` is set, columns past 63 being clipped since `c` is at most 63 (R191, R192). -/
abbrev State.SpriteDraws (s : State) (x y n : Nibble) (c : Fin 64) (r : Fin 32) : Prop :=
  ∃ k < n.toNat, ((s.reg y).toNat % 32 + k) % 32 = r.val ∧
    (s.reg x).toNat % 64 ≤ c.val ∧ c.val ≤ (s.reg x).toNat % 64 + 7 ∧
    (s.readByte (s.i.toNat + k)).getLsbD (7 - (c.val - (s.reg x).toNat % 64)) = true

/-- A completed step's clock (R107, R108): the accumulator, and the timers ticked from `dt` and `st`. -/
abbrev State.Clocked (s : State) (dt st : Byte) (t : State) : Prop :=
  t.acc = (s.acc + 60) % s.cfg.clockHz ∧
  t.dt.toNat = dt.toNat - (s.acc + 60) / s.cfg.clockHz ∧
  t.st.toNat = st.toNat - (s.acc + 60) / s.cfg.clockHz

/-- One entry of inputs is taken: the listed ones lose their first entry, and where none is listed the counter of the free
values advances. The model's choice (log 3). -/
abbrev State.InputsTaken (s t : State) : Prop :=
  (∀ inp rest, s.inputs = inp :: rest → t.inputs = rest ∧ t.draws = s.draws) ∧
  (s.inputs = [] → t.inputs = [] ∧ t.draws = s.draws + 1)

/-- A byte a store may write (R60, R65, R68). -/
abbrev Writable (cfg : Config) (a : Nat) : Prop :=
  a ≤ 0xFFF ∧ (0x1FF < a ∨ cfg.fontWritePolicy = .allow)

/-- The kind of the fault that a store to a byte it may not write raises (R68). -/
def storeFaultKind (a : Nat) : FaultKind :=
  if 0xFFF < a then .memOutOfRange else .fontWrite

/-- The instruction completes, leaves `pc` at `a + 2` and the general registers as `v` gives them, and the clock has
advanced with neither timer written. -/
abbrev CompletesWithRegs (i : Instr) (s : State) (v : Nibble → Byte) : Prop :=
  ∃ t, exec i s = .next t ∧ t.mode = s.mode ∧ t.pc = s.pc + 2 ∧ s.Clocked s.dt s.st t ∧ ∀ r, t.reg r = v r

/-- The instruction goes to `p`: it completes with `pc = p`, every register as it was and the clock advanced when `p` is a
valid `pc`, and is the fault PcInvalid with the value `p` when it is not (R106). -/
abbrev GoesTo (i : Instr) (s : State) (p : Word) : Prop :=
  (PcValid p → ∃ t, exec i s = .next t ∧ t.mode = s.mode ∧ t.pc = p ∧ s.Clocked s.dt s.st t ∧
    ∀ r, t.reg r = s.reg r) ∧
  (¬ PcValid p → exec i s = .next (s.halt ⟨.pcInvalid, p.toNat⟩))

end Machine

end Sys2Proof
end

