-- ==== Sys2Proof/Certificates/Slice0/Obligations.lean ====
section
/-! DEFINITION. The statements about the CORE, for the provers. `exec i s` is the whole RUNNING step of the instruction
`i` from the state `s` before the step (log 29); "fault" is the CORE's fault entry, a next state in HALTED_FATAL (log 8). The
clauses on encodings rest on the opcode map of 30_encoding.md, which the spec marks as its general knowledge (log 10). -/

open Sys2Proof Sys2Proof.Machine

/-! ### Encoding -/

/-- Decoding an encoded instruction gives it back, for every instruction and every operand (30_encoding.md section 2;
the encodings are the spec's general knowledge, log 10). -/
def Obligations.DecodeOfEncodeIsTheInstruction : Prop :=
  ∀ i : Instr, decodeWord (encode i) = .ok i

/-- A decoded word is the one encoding of its instruction: no bit is dropped (30_encoding.md sections 1 and 2; log 10). -/
def Obligations.EncodeOfDecodeIsTheWord : Prop :=
  ∀ (w : Word) (i : Instr), decodeWord w = .ok i → encode i = w

/-- The decoder is total, and the words it gives no instruction are the five undecoded spaces, rejected by name
(30_encoding.md sections 2 and 3; log 10). -/
def Obligations.ExactlyTheListedWordsAreUndecoded : Prop :=
  ∀ w : Word, (Undecoded w → decodeWord w = .error (.unknownWord w)) ∧ (¬ Undecoded w → ∃ i, decodeWord w = .ok i)

/-- Some words of the opcode map and of the undecoded spaces, by number (30_encoding.md section 2; 95_test_vectors.md
part L2; log 10). -/
def Obligations.OpcodeMapSampleWords : Prop :=
  decodeTableWord 16 0x00E0 = some .cls ∧ decodeTableWord 16 0x00EE = some .ret ∧
  decodeTableWord 16 0x1208 = some (.jp 0x208) ∧ decodeTableWord 16 0x2300 = some (.call 0x300) ∧
  decodeTableWord 16 0x3310 = some (.seImm 3 0x10) ∧ decodeTableWord 16 0x9120 = some (.sneReg 1 2) ∧
  decodeTableWord 16 0x6A5C = some (.ldImm 0xA 0x5C) ∧ decodeTableWord 16 0x8014 = some (.addReg 0 1) ∧
  decodeTableWord 16 0x801E = some (.shlReg 0 1) ∧ decodeTableWord 16 0xB1FE = some (.jpV0 0x1FE) ∧
  decodeTableWord 16 0xD015 = some (.drw 0 1 5) ∧ decodeTableWord 16 0xE39E = some (.skp 3) ∧
  decodeTableWord 16 0xF30A = some (.ldVxK 3) ∧ decodeTableWord 16 0xF265 = some (.load 2) ∧
  decodeTableWord 16 0x0123 = none ∧ decodeTableWord 16 0x5121 = none ∧ decodeTableWord 16 0x801F = none

/-! ### The step -/

/-- When the bytes at `pc` decode to an instruction, a RUNNING step is `exec` of it, nothing added (40_cycle.md section 2). -/
def Obligations.StepRunsTheDecodedInstruction : Prop :=
  ∀ (s : State) (i : Instr), s.mode = .running → PcValid s.pc →
    decodeBytes [s.readByte s.pc.toNat, s.readByte (s.pc.toNat + 1)] = .ok (i, []) → i.WellFormed →
    step s = exec i s

/-- R93: a word of an undecoded space is the fault DecodeFault with the word as its value; nothing executes. -/
def Obligations.UndecodedWordRaisesDecodeFault : Prop :=
  ∀ s : State, s.mode = .running → PcValid s.pc → Undecoded s.fetchWord →
    step s = .next { s with
      mode := .haltedFatal
      fault := some { kind := .decodeFault, faultPc := s.pc, inst := s.fetchWord, value := s.fetchWord.toNat } }

/-- R113: a step that begins in HALTED_FATAL changes nothing. -/
def Obligations.HaltedStepChangesNothing : Prop :=
  ∀ s : State, s.mode = .haltedFatal → step s = .next s

/-- HALTED_FATAL is terminal: no number of steps leaves it or changes anything (60_exceptions.md section 3). -/
def Obligations.HaltedIsTerminal : Prop :=
  ∀ (n : Nat) (s : State), s.mode = .haltedFatal → Sys2Proof.core.run n s = .next s

/-- A waiting step without a key event changes only `K`, `ACC` and the timers (40_cycle.md section 4; D19, log 15). -/
def Obligations.WaitingStepWithoutEventKeepsWaiting : Prop :=
  ∀ s : State, s.mode = .waitingForKey → s.nextInput.event = none →
    ∃ t, step s = .next t ∧ t.keys = s.nextInput.keys ∧ s.Clocked s.dt s.st t ∧
      t.cfg = s.cfg ∧ t.v = s.v ∧ t.i = s.i ∧ t.pc = s.pc ∧ t.stack = s.stack ∧ t.depth = s.depth ∧
      t.display = s.display ∧ t.mem = s.mem ∧ t.mode = .waitingForKey ∧ t.waitReg = s.waitReg ∧ t.fault = s.fault

/-- A waiting step with a key event writes the code to the waiting register, resumes RUNNING, and executes nothing
(40_cycle.md section 4). -/
def Obligations.WaitingStepDeliversTheKey : Prop :=
  ∀ (s : State) (code : Nibble), s.mode = .waitingForKey → s.nextInput.event = some code →
    ∃ t, step s = .next t ∧ t.mode = .running ∧
      (∀ r, t.reg r = if r = s.waitReg then code.setWidth 8 else s.reg r) ∧
      t.keys = s.nextInput.keys ∧ s.Clocked s.dt s.st t ∧
      t.cfg = s.cfg ∧ t.i = s.i ∧ t.pc = s.pc ∧ t.stack = s.stack ∧ t.depth = s.depth ∧
      t.display = s.display ∧ t.mem = s.mem ∧ t.waitReg = s.waitReg ∧ t.fault = s.fault

/-- A key event in a step that does not begin in WAITING_FOR_KEY has no effect and is not kept: with any other event, or
none, a step that does not fault gives the very same state, the inputs of the later steps included, and a step that faults or
is halted gives the same state but for the entry it leaves untouched (40_cycle.md section 4; D13, log 16). `inputs` is the
model's own field (log 3, log 8). -/
def Obligations.KeyEventOutsideTheWaitIsIgnored : Prop :=
  ∀ (s t : State) (keys : BitVec 16) (e e' : Option Nibble) (rand : Byte) (rest : List StepInput),
    s.mode ≠ .waitingForKey → step { s with inputs := ⟨keys, e, rand⟩ :: rest } = .next t →
    step { s with inputs := ⟨keys, e', rand⟩ :: rest } =
      .next (if t.mode = .haltedFatal then { t with inputs := ⟨keys, e', rand⟩ :: rest } else t)

/-- Every step that does not fault, in RUNNING and in WAITING_FOR_KEY, advances the accumulator by 60 modulo `CLOCK_HZ`
(40_cycle.md section 3; D18, log 14). -/
def Obligations.ClockAdvancesInEveryStepThatDoesNotFault : Prop :=
  ∀ s t : State, step s = .next t → t.mode ≠ .haltedFatal → t.acc = (s.acc + 60) % s.cfg.clockHz

/-- No instruction but the timer writers changes a timer except by the ticks of its step, and a timer at 0 stays at 0
(40_cycle.md section 3; D18, log 14). -/
def Obligations.TimersChangeOnlyByTheirWritersAndTheTick : Prop :=
  ∀ (i : Instr) (s t : State), exec i s = .next t → t.mode ≠ .haltedFatal →
    ((∀ x, i ≠ .ldDtVx x) → t.dt.toNat = s.dt.toNat - (s.acc + 60) / s.cfg.clockHz) ∧
    ((∀ x, i ≠ .ldStVx x) → t.st.toNat = s.st.toNat - (s.acc + 60) / s.cfg.clockHz)

/-- After an instruction that does not fault, `K` is the snapshot sampled at the start of its step (10_state.md section 8),
and the entry of inputs it came from is taken off the list (the model's choice, log 3). -/
def Obligations.KeypadHoldsThisStepsSnapshot : Prop :=
  ∀ (i : Instr) (s t : State), exec i s = .next t → t.mode ≠ .haltedFatal →
    t.keys = s.nextInput.keys ∧ s.InputsTaken t

/-! ### Whole-machine rules -/

/-- The invariants hold after every step from a state in which they hold (10_state.md section 10). -/
def Obligations.InvariantKeptByEveryStep : Prop :=
  ∀ s t : State, s.Inv → step s = .next t → t.Inv

/-- The invariants hold after reset. -/
def Obligations.InvariantHoldsAtReset : Prop :=
  State.reset.Inv

/-- From a state in which the invariants hold, every number of steps runs: the machine never stops on a model fault or a
refusal, and the invariants hold at the end. -/
def Obligations.ValidStatesRunForEver : Prop :=
  ∀ (n : Nat) (s : State), s.Inv → ∃ t : State, Sys2Proof.core.run n s = .next t ∧ t.Inv

/-- Every instruction answers a next state from every state. -/
def Obligations.EveryInstructionAnswersANextState : Prop :=
  ∀ (i : Instr) (s : State), ∃ t, exec i s = .next t

/-- R224: a step that ends in a fault is fault entry for what it raised, and fault entry leaves every component as it was
before the step and sets only `MODE` and `FAULT`, whose record holds the kind and the value raised, the fetch address and the
word. The codes 1 to 8 of the kinds are the spec's own labels (60_exceptions.md section 1; D30, log 23). -/
def Obligations.FaultEntryIsPreciseRollback : Prop :=
  (∀ s t : State, s.mode ≠ .haltedFatal → step s = .next t → t.mode = .haltedFatal → ∃ r : Raise, t = s.halt r) ∧
  (∀ (s : State) (r : Raise), ∃ f : FaultRecord,
    s.halt r = { s with mode := .haltedFatal, fault := some f } ∧ f.kind = r.kind ∧ f.faultPc = s.pc ∧
    f.inst = s.readByte s.pc.toNat ++ s.readByte (s.pc.toNat + 1) ∧ f.value = r.value ∧
    (f.kind, f.code) ∈ [(.decodeFault, 1), (.stackOverflow, 2), (.stackUnderflow, 3), (.pcInvalid, 4),
      (.iOutOfRange, 5), (.memOutOfRange, 6), (.fontWrite, 7), (.keyIndex, 8)])

/-- `MODE`, `WAITREG` and `FAULT` are written by `Fx0A` and by fault entry alone among the instructions (10_state.md
section 9). -/
def Obligations.ControlStateWrittenOnlyByWaitAndFault : Prop :=
  ∀ (i : Instr) (s t : State), exec i s = .next t →
    (t.mode = s.mode ∧ t.waitReg = s.waitReg ∧ t.fault = s.fault) ∨
    (t.mode = .haltedFatal ∧ t.waitReg = s.waitReg ∧ t.fault.isSome = true) ∨
    (∃ x, i = .ldVxK x ∧ t.mode = .waitingForKey ∧ t.waitReg = x ∧ t.fault = s.fault)

/-- R53: no step changes the configuration, and construction sets it. -/
def Obligations.ConfigurationNeverChanges : Prop :=
  (∀ s t : State, step s = .next t → t.cfg = s.cfg) ∧
  (∀ (cfg : Config) (fill : ResetFill) (image : List Byte) (inputs : List StepInput) (s : State),
    State.construct cfg fill image inputs = some s → s.cfg = cfg)

/-- Under `FONT_WRITE_POLICY = fault` no step changes a byte below 0x200 (20_memory.md section 3; D11, log 19). -/
def Obligations.FontRegionNeverMutated : Prop :=
  ∀ s t : State, s.cfg.fontWritePolicy = .fault → step s = .next t → ∀ a < 0x200, t.readByte a = s.readByte a

/-- Register frame of every instruction: a register outside those listed for it keeps its value (10_state.md section 1). -/
def Obligations.RegistersWrittenOnlyAsListed : Prop :=
  ∀ (i : Instr) (s t : State) (r : Nibble), exec i s = .next t → i.writesReg s.cfg r = false → t.reg r = s.reg r

/-- Frame of `I`: only the instructions listed for it write it (10_state.md section 2). -/
def Obligations.AddressRegisterWrittenOnlyAsListed : Prop :=
  ∀ (i : Instr) (s t : State), exec i s = .next t → i.writesI s.cfg = false → t.i = s.i

/-- Frame of the call stack: only `CALL` and `RET` touch it, and `RET` leaves every slot as it was (10_state.md section 4). -/
def Obligations.StackTouchedOnlyByCallAndReturn : Prop :=
  ∀ (i : Instr) (s t : State), exec i s = .next t →
    (i.usesStack = false → t.stack = s.stack ∧ t.depth = s.depth) ∧ (i = .ret → t.stack = s.stack)

/-- Frame of the display: only `CLS` and `DRW` change it (10_state.md sections 7 and 11). -/
def Obligations.DisplayChangesOnlyByClearAndDraw : Prop :=
  ∀ (i : Instr) (s t : State), exec i s = .next t → i.writesDisplay = false → t.display = s.display

/-- Frame of memory: every byte outside the ones stored, from `I` upward, reads as before; the forms that store nothing
change no byte (20_memory.md section 4). -/
def Obligations.MemoryChangesOnlyInTheStoredBytes : Prop :=
  ∀ (i : Instr) (s t : State) (a : Nat), exec i s = .next t →
    ¬ (s.i.toNat ≤ a ∧ a < s.i.toNat + i.storedBytes) → t.readByte a = s.readByte a

/-- Every instruction but jumps, calls, returns and skips leaves `pc` at the next instruction (10_state.md section 3). -/
def Obligations.SequentialInstructionsAdvancePcByTwo : Prop :=
  ∀ (i : Instr) (s t : State), exec i s = .next t → t.mode ≠ .haltedFatal → i.sequential = true → t.pc = s.pc + 2

/-- Sequential flow past the last slot is the fault PcInvalid with the value `a + 2`, in every sequential instruction: in
those that raise no other fault, and in `DRW`, `ADD I`, `LD B`, `LD [I]` and `LD Vx, [I]` where their own checks pass
(40_cycle.md section 2, 43_address_memory.md section 1, 44_display.md section 1, 60_exceptions.md sections 1 and 2; D9, D31,
log 18, log 21). -/
def Obligations.SequentialFlowPastTheEndFaults : Prop :=
  ∀ (i : Instr) (s : State) (x y n : Nibble), ¬ PcValid (s.pc + 2) →
    (i.faultsOnlyPastTheEnd = true → exec i s = .next (s.halt ⟨.pcInvalid, (s.pc + 2).toNat⟩)) ∧
    (s.i.toNat + n.toNat ≤ 0x1000 → exec (.drw x y n) s = .next (s.halt ⟨.pcInvalid, (s.pc + 2).toNat⟩)) ∧
    (s.i.toNat + (s.reg x).toNat ≤ 0xFFF → exec (.addI x) s = .next (s.halt ⟨.pcInvalid, (s.pc + 2).toNat⟩)) ∧
    (s.i.toNat + 2 ≤ 0xFFF → (0x1FF < s.i.toNat ∨ s.cfg.fontWritePolicy = .allow) →
      exec (.ldB x) s = .next (s.halt ⟨.pcInvalid, (s.pc + 2).toNat⟩)) ∧
    (s.i.toNat + x.toNat ≤ 0xFFF → (0x1FF < s.i.toNat ∨ s.cfg.fontWritePolicy = .allow) →
      (s.cfg.loadStoreIncrementsI = true → s.i.toNat + x.toNat + 1 ≤ 0xFFF) →
      exec (.dump x) s = .next (s.halt ⟨.pcInvalid, (s.pc + 2).toNat⟩)) ∧
    (s.i.toNat + x.toNat ≤ 0xFFF → (s.cfg.loadStoreIncrementsI = true → s.i.toNat + x.toNat + 1 ≤ 0xFFF) →
      exec (.load x) s = .next (s.halt ⟨.pcInvalid, (s.pc + 2).toNat⟩))

/-! ### Construction and reset -/

/-- Construction gives a state in which the invariants hold, for every valid configuration, fill and image. -/
def Obligations.ConstructionMeetsTheInvariant : Prop :=
  ∀ (cfg : Config) (fill : ResetFill) (image : List Byte) (inputs : List StepInput) (s : State),
    State.construct cfg fill image inputs = some s → s.Inv

/-- Every construction starts in RUNNING at 0x200 with `FAULT` empty, `D`, `K`, `WAITREG` and `ACC` 0 and the other registers
and the display at the values of its fill; the program image is loaded byte for byte from 0x200 and the font at `FONT_BASE`,
over any fill, and under the fill `zero` every other byte and value is 0; an image of more than 3584 bytes constructs no machine
(10_state.md section 10, 70_reset_and_hazards.md section 1; D6, D18, D21, D33, log 5, log 7). -/
def Obligations.ConstructionLoadsFontAndImage : Prop :=
  ∀ (cfg : Config) (fill : ResetFill) (image : List Byte) (inputs : List StepInput), cfg.WellFormed →
    (image.length ≤ 3584 → ∃ s, State.construct cfg fill image inputs = some s ∧
      (∀ j, ∀ h : j < image.length, s.readByte (0x200 + j) = image[j]) ∧
      (∀ j, ∀ h : j < 80, s.readByte (cfg.fontBase.toNat + j) = cfg.fontData[j]) ∧
      s.mode = .running ∧ s.pc = 0x200 ∧ s.fault = none ∧ s.depth = 0 ∧ s.keys = 0 ∧ s.waitReg = 0 ∧ s.acc = 0 ∧
      (∀ f, fill = .arbitrary f → s.v = f.v ∧ s.i.toNat = f.i.toNat ∧ s.stack = f.stack ∧ s.dt = f.dt ∧ s.st = f.st ∧
        s.display = f.display) ∧
      (fill = .zero → (∀ r, s.reg r = 0) ∧ s.i = 0 ∧ (∀ k : Fin 16, s.stack[k] = 0) ∧ s.dt = 0 ∧ s.st = 0 ∧
        (∀ c r, s.pixel c r = false) ∧
        ∀ a, (a < cfg.fontBase.toNat ∨ cfg.fontBase.toNat + 80 ≤ a) → (a < 0x200 ∨ 0x200 + image.length ≤ a) →
          s.readByte a = 0)) ∧
    (3584 < image.length → State.construct cfg fill image inputs = none)

/-- The state after reset, by the spec's table with fill `zero` and the default configuration (10_state.md section 10; D21
and D33; the clock rate and the idle input are the model's choice, log 2, log 4 and log 5). -/
def Obligations.ResetState : Prop :=
  State.construct Config.default .zero [] [StepInput.idle] = some State.reset ∧
  State.reset.mode = .running ∧ State.reset.pc = 0x200 ∧ State.reset.fault = none ∧ State.reset.depth = 0 ∧
  (∀ r, State.reset.reg r = 0) ∧ State.reset.i = 0 ∧ State.reset.dt = 0 ∧ State.reset.st = 0 ∧ State.reset.acc = 0 ∧
  State.reset.keys = 0 ∧ State.reset.waitReg = 0 ∧ (∀ c r, State.reset.pixel c r = false) ∧
  (∀ j, ∀ h : j < 80, State.reset.readByte j = Config.standardFont[j]) ∧
  (∀ a, 80 ≤ a → a ≤ 0xFFF → State.reset.readByte a = 0)

/-! ### Register loads, arithmetic, logic, shifts, random -/

/-- R141, R143, R144, R145, R146: the result of each, with every other register (`VF` among them) as it was. -/
def Obligations.LoadsAndLogicWriteTheirResult : Prop :=
  ∀ (s : State) (x y : Nibble) (kk : Byte),
    decodeWord (packXkk 0x6 x kk) = .ok (.ldImm x kk) ∧ decodeWord (packXyn 0x8 x y 0x0) = .ok (.ldReg x y) ∧
    decodeWord (packXyn 0x8 x y 0x1) = .ok (.orReg x y) ∧ decodeWord (packXyn 0x8 x y 0x2) = .ok (.andReg x y) ∧
    decodeWord (packXyn 0x8 x y 0x3) = .ok (.xorReg x y) ∧
    (PcValid (s.pc + 2) →
      CompletesWithRegs (.ldImm x kk) s (fun r => if r = x then kk else s.reg r) ∧
      CompletesWithRegs (.ldReg x y) s (fun r => if r = x then s.reg y else s.reg r) ∧
      CompletesWithRegs (.orReg x y) s (fun r => if r = x then s.reg x ||| s.reg y else s.reg r) ∧
      CompletesWithRegs (.andReg x y) s (fun r => if r = x then s.reg x &&& s.reg y else s.reg r) ∧
      CompletesWithRegs (.xorReg x y) s (fun r => if r = x then s.reg x ^^^ s.reg y else s.reg r))

/-- R142: the sum modulo 256 and no flag: every register but `Vx` is as it was. -/
def Obligations.AddImmediateWrapsAndSetsNoFlag : Prop :=
  ∀ (s : State) (x : Nibble) (kk : Byte),
    decodeWord (packXkk 0x7 x kk) = .ok (.addImm x kk) ∧
    (PcValid (s.pc + 2) → CompletesWithRegs (.addImm x kk) s fun r =>
      if r = x then BitVec.ofNat 8 (((s.reg x).toNat + kk.toNat) % 256) else s.reg r)

/-- R147: the sum modulo 256, and `VF` is 1 exactly when the sum is above 255, `x = F` included. -/
def Obligations.AddRegistersSetsCarry : Prop :=
  ∀ (s : State) (x y : Nibble),
    decodeWord (packXyn 0x8 x y 0x4) = .ok (.addReg x y) ∧
    (PcValid (s.pc + 2) → CompletesWithRegs (.addReg x y) s fun r =>
      if r = 0xF then (if 255 < (s.reg x).toNat + (s.reg y).toNat then 1 else 0)
      else if r = x then BitVec.ofNat 8 (((s.reg x).toNat + (s.reg y).toNat) % 256) else s.reg r)

/-- R148, R150: the difference modulo 256, and `VF` is 1 exactly when nothing is borrowed, `x = F` included. -/
def Obligations.SubtractionsSetNotBorrow : Prop :=
  ∀ (s : State) (x y : Nibble),
    decodeWord (packXyn 0x8 x y 0x5) = .ok (.subReg x y) ∧ decodeWord (packXyn 0x8 x y 0x7) = .ok (.subnReg x y) ∧
    (PcValid (s.pc + 2) →
      (CompletesWithRegs (.subReg x y) s fun r =>
        if r = 0xF then (if (s.reg y).toNat ≤ (s.reg x).toNat then 1 else 0)
        else if r = x then BitVec.ofNat 8 ((256 + (s.reg x).toNat - (s.reg y).toNat) % 256) else s.reg r) ∧
      (CompletesWithRegs (.subnReg x y) s fun r =>
        if r = 0xF then (if (s.reg x).toNat ≤ (s.reg y).toNat then 1 else 0)
        else if r = x then BitVec.ofNat 8 ((256 + (s.reg y).toNat - (s.reg x).toNat) % 256) else s.reg r))

/-- The shifts by one, of the source the quirk selects; `VF` is the bit shifted out, `x = F` included (42_alu.md section 2;
D14, D15, log 17). -/
def Obligations.ShiftsWriteResultAndShiftedOutBit : Prop :=
  ∀ (s : State) (x y : Nibble) (src : Byte), PcValid (s.pc + 2) →
    src = (if s.cfg.shiftUsesVy = true then s.reg y else s.reg x) →
    (CompletesWithRegs (.shrReg x y) s fun r =>
      if r = 0xF then BitVec.ofNat 8 (src.toNat % 2)
      else if r = x then BitVec.ofNat 8 (src.toNat / 2) else s.reg r) ∧
    (CompletesWithRegs (.shlReg x y) s fun r =>
      if r = 0xF then BitVec.ofNat 8 (src.toNat / 128)
      else if r = x then BitVec.ofNat 8 (src.toNat * 2 % 256) else s.reg r)

/-- The random byte of the step, whatever it is, masked by `kk` (42_alu.md section 2; D27, log 3). -/
def Obligations.RandomIsTheStepsByteMasked : Prop :=
  ∀ (s : State) (x : Nibble) (kk : Byte), PcValid (s.pc + 2) →
    CompletesWithRegs (.rnd x kk) s fun r => if r = x then s.nextInput.rand &&& kk else s.reg r

/-! ### Control transfer -/

/-- R122, R128: the jumps go to `nnn` and to `nnn + V0`, never reduced modulo 4096; an invalid target is the fault
PcInvalid with the target as its value. -/
def Obligations.JumpsGoToTheirTarget : Prop :=
  ∀ (s : State) (nnn : Addr),
    decodeWord (packNnn 0x1 nnn) = .ok (.jp nnn) ∧ decodeWord (packNnn 0xB nnn) = .ok (.jpV0 nnn) ∧
    GoesTo (.jp nnn) s (BitVec.ofNat 16 nnn.toNat) ∧
    GoesTo (.jpV0 nnn) s (BitVec.ofNat 16 (nnn.toNat + (s.reg 0).toNat)) ∧
    (BitVec.ofNat 16 (nnn.toNat + (s.reg 0).toNat)).toNat = nnn.toNat + (s.reg 0).toNat

/-- R124, R125, R126, R127: each skip goes to `a + 4` when its condition holds and to `a + 2` when it does not. -/
def Obligations.SkipsStepOverOneInstruction : Prop :=
  ∀ (s : State) (x y : Nibble) (kk : Byte),
    decodeWord (packXkk 0x3 x kk) = .ok (.seImm x kk) ∧ decodeWord (packXkk 0x4 x kk) = .ok (.sneImm x kk) ∧
    decodeWord (packXyn 0x5 x y 0x0) = .ok (.seReg x y) ∧ decodeWord (packXyn 0x9 x y 0x0) = .ok (.sneReg x y) ∧
    (∀ n : Nibble, n ≠ 0 → decodeWord (packXyn 0x5 x y n) = .error (.unknownWord (packXyn 0x5 x y n)) ∧
      decodeWord (packXyn 0x9 x y n) = .error (.unknownWord (packXyn 0x9 x y n))) ∧
    GoesTo (.seImm x kk) s (if s.reg x = kk then s.pc + 4 else s.pc + 2) ∧
    GoesTo (.sneImm x kk) s (if s.reg x = kk then s.pc + 2 else s.pc + 4) ∧
    GoesTo (.seReg x y) s (if s.reg x = s.reg y then s.pc + 4 else s.pc + 2) ∧
    GoesTo (.sneReg x y) s (if s.reg x = s.reg y then s.pc + 2 else s.pc + 4)

/-- `CALL`: it pushes `a + 2` and goes to `nnn`; onto a full stack it is StackOverflow with the return address, before any
check of the target; to an invalid target it is PcInvalid (41_control_flow.md section 2; D31, D32, log 18, log 21). -/
def Obligations.CallPushesTheReturnAddress : Prop :=
  ∀ (s : State) (nnn : Addr),
    (s.depth.val < 16 → PcValid (BitVec.ofNat 16 nnn.toNat) →
      ∃ t, exec (.call nnn) s = .next t ∧ t.mode = s.mode ∧ t.pc = BitVec.ofNat 16 nnn.toNat ∧
        t.depth.val = s.depth.val + 1 ∧
        ∀ k : Fin 16, t.stack[k] = if k.val = s.depth.val then s.pc + 2 else s.stack[k]) ∧
    (s.depth.val < 16 → ¬ PcValid (BitVec.ofNat 16 nnn.toNat) →
      exec (.call nnn) s = .next (s.halt ⟨.pcInvalid, nnn.toNat⟩)) ∧
    (s.depth.val = 16 → exec (.call nnn) s = .next (s.halt ⟨.stackOverflow, (s.pc + 2).toNat⟩))

/-- `RET`: it goes to the popped address, the slots unchanged; an empty stack is StackUnderflow, an invalid address
PcInvalid (41_control_flow.md section 2). -/
def Obligations.ReturnPopsTheReturnAddress : Prop :=
  ∀ s : State,
    (s.depth.val = 0 → exec .ret s = .next (s.halt ⟨.stackUnderflow, 0⟩)) ∧
    (∀ k : Fin 16, s.depth.val = k.val + 1 →
      (PcValid s.stack[k] → ∃ t, exec .ret s = .next t ∧ t.mode = s.mode ∧ t.pc = s.stack[k] ∧
        t.depth.val = k.val ∧ t.stack = s.stack) ∧
      (¬ PcValid s.stack[k] → exec .ret s = .next (s.halt ⟨.pcInvalid, s.stack[k].toNat⟩)))

/-- A completed `CALL` and then `RET` come back to the instruction after the call, at every depth, with the earlier return
addresses as they were (95_test_vectors.md L1.6; 41_control_flow.md section 2). -/
def Obligations.ReturnAfterCallComesBack : Prop :=
  ∀ (s t : State) (nnn : Addr), exec (.call nnn) s = .next t → t.mode ≠ .haltedFatal → PcValid (s.pc + 2) →
    ∃ u, exec .ret t = .next u ∧ u.mode = t.mode ∧ u.pc = s.pc + 2 ∧ u.depth = s.depth ∧
      ∀ k : Fin 16, k.val < s.depth.val → u.stack[k] = s.stack[k]

/-! ### Address register and memory -/

/-- R170: `I` is `nnn`, the registers as they were. -/
def Obligations.LoadAddressSetsI : Prop :=
  ∀ (s : State) (nnn : Addr),
    decodeWord (packNnn 0xA nnn) = .ok (.ldI nnn) ∧
    (PcValid (s.pc + 2) →
      ∃ t, exec (.ldI nnn) s = .next t ∧ t.mode = s.mode ∧ t.i.toNat = nnn.toNat ∧ ∀ r, t.reg r = s.reg r)

/-- R172: `I` is the address of the glyph of `Vx mod 16`. -/
def Obligations.FontAddressSelectsTheGlyph : Prop :=
  ∀ (s : State) (x : Nibble),
    decodeWord (packXkk 0xF x 0x29) = .ok (.ldF x) ∧
    (PcValid (s.pc + 2) →
      ∃ t, exec (.ldF x) s = .next t ∧ t.mode = s.mode ∧
        t.i.toNat = s.cfg.fontBase.toNat + 5 * ((s.reg x).toNat % 16) ∧ ∀ r, t.reg r = s.reg r)

/-- `ADD I, Vx`: the sum, with `VF` cleared under the quirk; a sum above 0xFFF is IOutOfRange with the sum, in both settings
of the quirk (43_address_memory.md section 1; C3, D17, log 20). -/
def Obligations.AddToAddressStaysInMemoryOrFaults : Prop :=
  ∀ (s : State) (x : Nibble),
    (s.i.toNat + (s.reg x).toNat ≤ 0xFFF → PcValid (s.pc + 2) →
      ∃ t, exec (.addI x) s = .next t ∧ t.mode = s.mode ∧ t.i.toNat = s.i.toNat + (s.reg x).toNat ∧
        ∀ r, t.reg r = if s.cfg.addISetsVf = true ∧ r = 0xF then 0 else s.reg r) ∧
    (0xFFF < s.i.toNat + (s.reg x).toNat →
      exec (.addI x) s = .next (s.halt ⟨.iOutOfRange, s.i.toNat + (s.reg x).toNat⟩))

/-- R173: the three decimal digits go to `I`, `I + 1`, `I + 2`; the faults name the lowest failing address. -/
def Obligations.BcdStoresThreeDigits : Prop :=
  ∀ (s : State) (x : Nibble),
    decodeWord (packXkk 0xF x 0x33) = .ok (.ldB x) ∧
    (s.i.toNat + 2 ≤ 0xFFF → (0x1FF < s.i.toNat ∨ s.cfg.fontWritePolicy = .allow) → PcValid (s.pc + 2) →
      ∃ t, exec (.ldB x) s = .next t ∧ t.mode = s.mode ∧ t.i = s.i ∧ (∀ r, t.reg r = s.reg r) ∧
        (t.readByte s.i.toNat).toNat = (s.reg x).toNat / 100 ∧
        (t.readByte (s.i.toNat + 1)).toNat = (s.reg x).toNat / 10 % 10 ∧
        (t.readByte (s.i.toNat + 2)).toNat = (s.reg x).toNat % 10) ∧
    (0xFFE ≤ s.i.toNat → exec (.ldB x) s = .next (s.halt ⟨.memOutOfRange, max s.i.toNat 0x1000⟩)) ∧
    (s.i.toNat ≤ 0x1FF → s.cfg.fontWritePolicy = .fault →
      exec (.ldB x) s = .next (s.halt ⟨.fontWrite, s.i.toNat⟩))

/-- `LD [I], Vx`: `V0..Vx` go to `I` upward, and `I` is unchanged or, under the quirk, `x + 1` further; under the quirk a
dump that ends at 0xFFF is IOutOfRange (43_address_memory.md section 1; C9, D16). -/
def Obligations.DumpStoresTheRegisters : Prop :=
  ∀ (s : State) (x : Nibble),
    (s.i.toNat + x.toNat ≤ 0xFFF → (0x1FF < s.i.toNat ∨ s.cfg.fontWritePolicy = .allow) →
      (s.cfg.loadStoreIncrementsI = true → s.i.toNat + x.toNat + 1 ≤ 0xFFF) → PcValid (s.pc + 2) →
      ∃ t, exec (.dump x) s = .next t ∧ t.mode = s.mode ∧ (∀ r, t.reg r = s.reg r) ∧
        (∀ r : Nibble, r.toNat ≤ x.toNat → t.readByte (s.i.toNat + r.toNat) = s.reg r) ∧
        t.i.toNat = if s.cfg.loadStoreIncrementsI = true then s.i.toNat + x.toNat + 1 else s.i.toNat) ∧
    (s.cfg.loadStoreIncrementsI = true → s.i.toNat + x.toNat = 0xFFF →
      exec (.dump x) s = .next (s.halt ⟨.iOutOfRange, 0x1000⟩))

/-- `LD Vx, [I]`: `V0..Vx` are the bytes from `I` upward, the other registers as they were, and `I` as in the dump
(43_address_memory.md section 1; C9, D16). -/
def Obligations.LoadReadsTheRegisters : Prop :=
  ∀ (s : State) (x : Nibble),
    (s.i.toNat + x.toNat ≤ 0xFFF → (s.cfg.loadStoreIncrementsI = true → s.i.toNat + x.toNat + 1 ≤ 0xFFF) →
      PcValid (s.pc + 2) →
      ∃ t, exec (.load x) s = .next t ∧ t.mode = s.mode ∧
        (∀ r : Nibble, t.reg r = if r.toNat ≤ x.toNat then s.readByte (s.i.toNat + r.toNat) else s.reg r) ∧
        t.i.toNat = if s.cfg.loadStoreIncrementsI = true then s.i.toNat + x.toNat + 1 else s.i.toNat) ∧
    (s.cfg.loadStoreIncrementsI = true → s.i.toNat + x.toNat = 0xFFF →
      exec (.load x) s = .next (s.halt ⟨.iOutOfRange, 0x1000⟩))

/-- The stores and the loads check every address before any effect and report the lowest failing one (20_memory.md
section 4; D10, D11, log 19). -/
def Obligations.MemoryFaultsReportTheLowestAddress : Prop :=
  ∀ (s : State) (x y n : Nibble) (k : Nat),
    ((∀ j < k, Writable s.cfg (s.i.toNat + j)) → ¬ Writable s.cfg (s.i.toNat + k) →
      (k ≤ x.toNat → exec (.dump x) s = .next (s.halt ⟨storeFaultKind (s.i.toNat + k), s.i.toNat + k⟩)) ∧
      (k ≤ 2 → exec (.ldB x) s = .next (s.halt ⟨storeFaultKind (s.i.toNat + k), s.i.toNat + k⟩))) ∧
    ((∀ j < k, s.i.toNat + j ≤ 0xFFF) → 0xFFF < s.i.toNat + k →
      (k ≤ x.toNat → exec (.load x) s = .next (s.halt ⟨.memOutOfRange, s.i.toNat + k⟩)) ∧
      (k < n.toNat → exec (.drw x y n) s = .next (s.halt ⟨.memOutOfRange, s.i.toNat + k⟩)))

/-! ### Display -/

/-- R190: every pixel is 0 and no register changes. -/
def Obligations.ClearDisplayClearsEveryPixel : Prop :=
  decodeWord 0x00E0 = .ok .cls ∧
  ∀ s : State, PcValid (s.pc + 2) →
    ∃ t, exec .cls s = .next t ∧ t.mode = s.mode ∧ (∀ r, t.reg r = s.reg r) ∧ ∀ c r, t.pixel c r = false

/-- `DRW` toggles exactly the pixels on which the sprite has a set bit, and writes no register but `VF` (44_display.md
sections 1 and 2; D8, D23, log 12, log 13). -/
def Obligations.DrawTogglesExactlyTheSpritesPixels : Prop :=
  ∀ (s : State) (x y n : Nibble), s.i.toNat + n.toNat ≤ 0x1000 → PcValid (s.pc + 2) →
    ∃ t, exec (.drw x y n) s = .next t ∧ t.mode = s.mode ∧ (∀ r : Nibble, r ≠ 0xF → t.reg r = s.reg r) ∧
      ∀ c r, t.pixel c r = if s.SpriteDraws x y n c r then !s.pixel c r else s.pixel c r

/-- R194: after a completed `DRW`, `VF` is 1 exactly when a pixel that was 1 before the draw is 0 after it, else 0. -/
def Obligations.DrawReportsCollisionInVF : Prop :=
  ∀ (s t : State) (x y n : Nibble), exec (.drw x y n) s = .next t → t.mode ≠ .haltedFatal →
    ((∃ c r, s.pixel c r = true ∧ t.pixel c r = false) → t.reg 0xF = 1) ∧
    ((¬ ∃ c r, s.pixel c r = true ∧ t.pixel c r = false) → t.reg 0xF = 0)

/-- The same sprite drawn twice at the same place restores the display (44_display.md section 2, the XOR law). THE MODEL'S
CHOICE (log 25): the second draw reports a collision exactly when the sprite has a bit on a pixel that was 0 before the first,
by the pseudocode of `DRW` and the collision rule, where the XOR law is worded to report one for any bit on a visible column. -/
def Obligations.DrawingTwiceRestoresTheDisplay : Prop :=
  ∀ (s t s' u : State) (x y n : Nibble),
    exec (.drw x y n) s = .next t → t.mode ≠ .haltedFatal →
    s'.display = t.display → s'.i = s.i → s'.reg x = s.reg x → s'.reg y = s.reg y →
    (∀ k < n.toNat, s'.readByte (s.i.toNat + k) = s.readByte (s.i.toNat + k)) →
    exec (.drw x y n) s' = .next u → u.mode ≠ .haltedFatal →
    u.display = s.display ∧ (u.reg 0xF = 1 ↔ ∃ c r, s.SpriteDraws x y n c r ∧ s.pixel c r = false)

/-- The second half of the XOR law as 44_display.md section 2 words it, that the second draw reports 1 whenever the sprite has
a bit on a visible column. EXPECTED TO FAIL: where every such pixel was already 1, the first draw turns them off and the
second turns none off, by the pseudocode and the collision rule, which the model follows (log 25). -/
def Obligations.SecondDrawAlwaysReportsCollision : Prop :=
  ∀ (s t u : State) (x y n : Nibble), x ≠ 0xF → y ≠ 0xF →
    exec (.drw x y n) s = .next t → t.mode ≠ .haltedFatal →
    exec (.drw x y n) { t with pc := s.pc } = .next u → u.mode ≠ .haltedFatal →
    (∃ c r, s.SpriteDraws x y n c r) → u.reg 0xF = 1

/-! ### Keypad and timers -/

/-- The keypad skips read this step's snapshot at the index in `Vx`; an index above 0xF is the fault KeyIndex or is masked,
as the policy says (45_timers_keypad.md section 1; D12, log 19). -/
def Obligations.KeypadSkipsReadTheSnapshot : Prop :=
  ∀ (s : State) (x : Nibble),
    (((s.reg x).toNat ≤ 0xF ∨ s.cfg.keyIndexPolicy = .mask) →
      GoesTo (.skp x) s (if s.nextInput.keys.getLsbD ((s.reg x).toNat % 16) = true then s.pc + 4 else s.pc + 2) ∧
      GoesTo (.sknp x) s (if s.nextInput.keys.getLsbD ((s.reg x).toNat % 16) = true then s.pc + 2 else s.pc + 4)) ∧
    (0xF < (s.reg x).toNat → s.cfg.keyIndexPolicy = .fault →
      exec (.skp x) s = .next (s.halt ⟨.keyIndex, (s.reg x).toNat⟩) ∧
      exec (.sknp x) s = .next (s.halt ⟨.keyIndex, (s.reg x).toNat⟩))

/-- R203: `Vx` is `DT` as it was before this step's tick. -/
def Obligations.GetDelayTimerReadsBeforeTheTick : Prop :=
  ∀ (s : State) (x : Nibble),
    decodeWord (packXkk 0xF x 0x07) = .ok (.ldVxDt x) ∧
    (PcValid (s.pc + 2) → ∃ t, exec (.ldVxDt x) s = .next t ∧ t.mode = s.mode ∧ s.Clocked s.dt s.st t ∧
      ∀ r, t.reg r = if r = x then s.dt else s.reg r)

/-- R205, R206: the timer is `Vx`, ticked by this same step; the tone is on exactly when `ST` is not 0 after the tick. -/
def Obligations.SetTimersAreTickedInTheSameStep : Prop :=
  ∀ (s : State) (x : Nibble),
    decodeWord (packXkk 0xF x 0x15) = .ok (.ldDtVx x) ∧ decodeWord (packXkk 0xF x 0x18) = .ok (.ldStVx x) ∧
    (PcValid (s.pc + 2) →
      (∃ t, exec (.ldDtVx x) s = .next t ∧ t.mode = s.mode ∧ s.Clocked (s.reg x) s.st t ∧
        ∀ r, t.reg r = s.reg r) ∧
      (∃ t, exec (.ldStVx x) s = .next t ∧ t.mode = s.mode ∧ s.Clocked s.dt (s.reg x) t ∧
        (t.tone = true ↔ 0 < (s.reg x).toNat - (s.acc + 60) / s.cfg.clockHz) ∧ ∀ r, t.reg r = s.reg r))

/-- `LD Vx, K`: the wait begins, whatever event this step carries: `WAITREG` is `x`, no register is written, `pc` is `a + 2`;
at the last slot it is PcInvalid and the wait is not entered (45_timers_keypad.md section 2; D9, log 18). -/
def Obligations.WaitForKeyEntersTheWait : Prop :=
  ∀ (s : State) (x : Nibble),
    decodeWord (packXkk 0xF x 0x0A) = .ok (.ldVxK x) ∧
    (PcValid (s.pc + 2) → ∃ t, exec (.ldVxK x) s = .next t ∧ t.mode = .waitingForKey ∧ t.waitReg = x ∧
      t.pc = s.pc + 2 ∧ s.Clocked s.dt s.st t ∧ ∀ r, t.reg r = s.reg r) ∧
    (¬ PcValid (s.pc + 2) → exec (.ldVxK x) s = .next (s.halt ⟨.pcInvalid, (s.pc + 2).toNat⟩))

/-! ### The inputs of the steps -/

/-- Every step that does not fault, in RUNNING and in WAITING_FOR_KEY, takes its own entry of inputs, the first listed one or
a fresh free value, and samples `K` from it; a step that faults or is halted leaves the inputs as they were (10_state.md
sections 8 and 11; how the inputs of the steps stand in State is the model's choice, log 3 and log 8). -/
def Obligations.EachStepTakesItsOwnInputs : Prop :=
  ∀ s t : State, step s = .next t →
    (∀ inp rest, s.inputs = inp :: rest → s.nextInput = inp) ∧
    (s.inputs = [] → s.nextInput = Config.freeInput s.draws) ∧
    (t.mode ≠ .haltedFatal → t.keys = s.nextInput.keys ∧ s.InputsTaken t) ∧
    (t.mode = .haltedFatal → t.keys = s.keys ∧ t.inputs = s.inputs ∧ t.draws = s.draws)
end

