-- ==== Sys2Proof/Laws/Decode.lean ====
section
/-! SUPPORT. The fields of a word and the packed formats as numbers, and each field of each format. -/

namespace Sys2Proof

theorem toNat_opField (w : Word) : (opField w).toNat = w.toNat / 4096 := by
  have := w.isLt
  simp only [opField, BitVec.extractLsb'_toNat, Nat.shiftRight_eq_div_pow]
  omega

theorem toNat_xField (w : Word) : (xField w).toNat = w.toNat / 256 % 16 := by
  simp only [xField, BitVec.extractLsb'_toNat, Nat.shiftRight_eq_div_pow, Nat.reducePow]

theorem toNat_yField (w : Word) : (yField w).toNat = w.toNat / 16 % 16 := by
  simp only [yField, BitVec.extractLsb'_toNat, Nat.shiftRight_eq_div_pow, Nat.reducePow]

theorem toNat_nField (w : Word) : (nField w).toNat = w.toNat % 16 := by
  simp only [nField, BitVec.extractLsb'_toNat, Nat.shiftRight_eq_div_pow, Nat.reducePow]
  omega

theorem toNat_kkField (w : Word) : (kkField w).toNat = w.toNat % 256 := by
  simp only [kkField, BitVec.extractLsb'_toNat, Nat.shiftRight_eq_div_pow, Nat.reducePow]
  omega

theorem toNat_nnnField (w : Word) : (nnnField w).toNat = w.toNat % 4096 := by
  simp only [nnnField, BitVec.extractLsb'_toNat, Nat.shiftRight_eq_div_pow, Nat.reducePow]
  omega

theorem toNat_packXkk (op x : Nibble) (kk : Byte) :
    (packXkk op x kk).toNat = op.toNat * 4096 + x.toNat * 256 + kk.toNat := by
  change (op ++ x ++ kk : BitVec (4 + 4 + 8)).toNat = _
  rw [BitVec.toNat_append, BitVec.toNat_append, ← Nat.shiftLeft_add_eq_or_of_lt kk.isLt,
    ← Nat.shiftLeft_add_eq_or_of_lt x.isLt, Nat.shiftLeft_eq, Nat.shiftLeft_eq]
  omega

theorem toNat_packXyn (op x y n : Nibble) :
    (packXyn op x y n).toNat = op.toNat * 4096 + x.toNat * 256 + y.toNat * 16 + n.toNat := by
  change (op ++ x ++ y ++ n : BitVec (4 + 4 + 4 + 4)).toNat = _
  rw [BitVec.toNat_append, BitVec.toNat_append, BitVec.toNat_append, ← Nat.shiftLeft_add_eq_or_of_lt n.isLt,
    ← Nat.shiftLeft_add_eq_or_of_lt y.isLt, ← Nat.shiftLeft_add_eq_or_of_lt x.isLt, Nat.shiftLeft_eq,
    Nat.shiftLeft_eq, Nat.shiftLeft_eq]
  omega

theorem toNat_packNnn (op : Nibble) (nnn : Addr) : (packNnn op nnn).toNat = op.toNat * 4096 + nnn.toNat := by
  change (op ++ nnn : BitVec (4 + 12)).toNat = _
  rw [BitVec.toNat_append, ← Nat.shiftLeft_add_eq_or_of_lt nnn.isLt, Nat.shiftLeft_eq]

@[simp] theorem opField_packXkk (op x : Nibble) (kk : Byte) : opField (packXkk op x kk) = op := by
  have := x.isLt; have := kk.isLt
  apply BitVec.eq_of_toNat_eq
  rw [toNat_opField, toNat_packXkk]
  omega

@[simp] theorem xField_packXkk (op x : Nibble) (kk : Byte) : xField (packXkk op x kk) = x := by
  have := x.isLt; have := kk.isLt
  apply BitVec.eq_of_toNat_eq
  rw [toNat_xField, toNat_packXkk]
  omega

@[simp] theorem kkField_packXkk (op x : Nibble) (kk : Byte) : kkField (packXkk op x kk) = kk := by
  have := kk.isLt
  apply BitVec.eq_of_toNat_eq
  rw [toNat_kkField, toNat_packXkk]
  omega

@[simp] theorem opField_packXyn (op x y n : Nibble) : opField (packXyn op x y n) = op := by
  have := x.isLt; have := y.isLt; have := n.isLt
  apply BitVec.eq_of_toNat_eq
  rw [toNat_opField, toNat_packXyn]
  omega

@[simp] theorem xField_packXyn (op x y n : Nibble) : xField (packXyn op x y n) = x := by
  have := x.isLt; have := y.isLt; have := n.isLt
  apply BitVec.eq_of_toNat_eq
  rw [toNat_xField, toNat_packXyn]
  omega

@[simp] theorem yField_packXyn (op x y n : Nibble) : yField (packXyn op x y n) = y := by
  have := y.isLt; have := n.isLt
  apply BitVec.eq_of_toNat_eq
  rw [toNat_yField, toNat_packXyn]
  omega

@[simp] theorem nField_packXyn (op x y n : Nibble) : nField (packXyn op x y n) = n := by
  have := n.isLt
  apply BitVec.eq_of_toNat_eq
  rw [toNat_nField, toNat_packXyn]
  omega

@[simp] theorem opField_packNnn (op : Nibble) (nnn : Addr) : opField (packNnn op nnn) = op := by
  have := nnn.isLt
  apply BitVec.eq_of_toNat_eq
  rw [toNat_opField, toNat_packNnn]
  omega

@[simp] theorem nnnField_packNnn (op : Nibble) (nnn : Addr) : nnnField (packNnn op nnn) = nnn := by
  have := nnn.isLt
  apply BitVec.eq_of_toNat_eq
  rw [toNat_nnnField, toNat_packNnn]
  omega

/-- A word is its fields packed, in each of the three formats. -/
theorem packXkk_fields (w : Word) : packXkk (opField w) (xField w) (kkField w) = w := by
  have := w.isLt
  apply BitVec.eq_of_toNat_eq
  rw [toNat_packXkk, toNat_opField, toNat_xField, toNat_kkField]
  omega

theorem packXyn_fields (w : Word) : packXyn (opField w) (xField w) (yField w) (nField w) = w := by
  have := w.isLt
  apply BitVec.eq_of_toNat_eq
  rw [toNat_packXyn, toNat_opField, toNat_xField, toNat_yField, toNat_nField]
  omega

theorem packNnn_fields (w : Word) : packNnn (opField w) (nnnField w) = w := by
  have := w.isLt
  apply BitVec.eq_of_toNat_eq
  rw [toNat_packNnn, toNat_opField, toNat_nnnField]
  omega

/-- The two bytes of a word make the word again (R62). -/
@[simp] theorem wordOfBytes_highByte_lowByte (w : Word) : wordOfBytes (highByte w) (lowByte w) = w := by
  apply BitVec.eq_of_toNat_eq
  change (highByte w ++ lowByte w : BitVec (8 + 8)).toNat = _
  rw [BitVec.toNat_append, ← Nat.shiftLeft_add_eq_or_of_lt (lowByte w).isLt, Nat.shiftLeft_eq]
  have := w.isLt
  simp only [highByte, lowByte, BitVec.extractLsb'_toNat, Nat.shiftRight_eq_div_pow]
  omega

/-- The sixteen values of nibble 0. -/
theorem nibble_cases (a : Nibble) :
    a = 0x0 ∨ a = 0x1 ∨ a = 0x2 ∨ a = 0x3 ∨ a = 0x4 ∨ a = 0x5 ∨ a = 0x6 ∨ a = 0x7 ∨
    a = 0x8 ∨ a = 0x9 ∨ a = 0xA ∨ a = 0xB ∨ a = 0xC ∨ a = 0xD ∨ a = 0xE ∨ a = 0xF := by
  revert a
  decide

/-! What the decoder reads, family by family (R83). -/

theorem decodeWord_family0 {w : Word} (h : opField w = 0x0) : decodeWord w = decodeFamily0 w := by
  simp [decodeWord, h]

theorem decodeWord_family1 {w : Word} (h : opField w = 0x1) : decodeWord w = .ok (.jp (nnnField w)) := by
  simp [decodeWord, h]

theorem decodeWord_family2 {w : Word} (h : opField w = 0x2) : decodeWord w = .ok (.call (nnnField w)) := by
  simp [decodeWord, h]

theorem decodeWord_family3 {w : Word} (h : opField w = 0x3) : decodeWord w = .ok (.seImm (xField w) (kkField w)) := by
  simp [decodeWord, h]

theorem decodeWord_family4 {w : Word} (h : opField w = 0x4) : decodeWord w = .ok (.sneImm (xField w) (kkField w)) := by
  simp [decodeWord, h]

theorem decodeWord_family5 {w : Word} (h : opField w = 0x5) : decodeWord w = decodeRegisterSkip (.seReg (xField w) (yField w)) w := by
  simp [decodeWord, h]

theorem decodeWord_family6 {w : Word} (h : opField w = 0x6) : decodeWord w = .ok (.ldImm (xField w) (kkField w)) := by
  simp [decodeWord, h]

theorem decodeWord_family7 {w : Word} (h : opField w = 0x7) : decodeWord w = .ok (.addImm (xField w) (kkField w)) := by
  simp [decodeWord, h]

theorem decodeWord_family8 {w : Word} (h : opField w = 0x8) : decodeWord w = decodeFamily8 w := by
  simp [decodeWord, h]

theorem decodeWord_family9 {w : Word} (h : opField w = 0x9) : decodeWord w = decodeRegisterSkip (.sneReg (xField w) (yField w)) w := by
  simp [decodeWord, h]

theorem decodeWord_familyA {w : Word} (h : opField w = 0xA) : decodeWord w = .ok (.ldI (nnnField w)) := by
  simp [decodeWord, h]

theorem decodeWord_familyB {w : Word} (h : opField w = 0xB) : decodeWord w = .ok (.jpV0 (nnnField w)) := by
  simp [decodeWord, h]

theorem decodeWord_familyC {w : Word} (h : opField w = 0xC) : decodeWord w = .ok (.rnd (xField w) (kkField w)) := by
  simp [decodeWord, h]

theorem decodeWord_familyD {w : Word} (h : opField w = 0xD) : decodeWord w = .ok (.drw (xField w) (yField w) (nField w)) := by
  simp [decodeWord, h]

theorem decodeWord_familyE {w : Word} (h : opField w = 0xE) : decodeWord w = decodeFamilyE w := by
  simp [decodeWord, h]

theorem decodeWord_familyF {w : Word} (h : opField w = 0xF) : decodeWord w = decodeFamilyF w := by
  simp [decodeWord, h]

/-- The words family 0 decodes (R85). -/
theorem decodeFamily0_ok {w : Word} {i : Instr} (h : decodeFamily0 w = .ok i) :
    (w = 0x00E0 ∧ i = .cls) ∨ (w = 0x00EE ∧ i = .ret) := by
  unfold decodeFamily0 at h
  split at h
  · exact .inl ⟨‹_›, (Except.ok.inj h).symm⟩
  · split at h
    · exact .inr ⟨‹_›, (Except.ok.inj h).symm⟩
    · cases h

/-- The words families 5 and 9 decode (R86). -/
theorem decodeRegisterSkip_ok {w : Word} {i j : Instr} (h : decodeRegisterSkip j w = .ok i) :
    nField w = 0 ∧ i = j := by
  unfold decodeRegisterSkip at h
  split at h
  · exact ⟨‹_›, (Except.ok.inj h).symm⟩
  · cases h

/-- The words family 8 decodes (R87). -/
theorem decodeFamily8_ok {w : Word} {i : Instr} (h : decodeFamily8 w = .ok i) :
    (nField w, i) ∈ [(0x0, .ldReg (xField w) (yField w)), (0x1, .orReg (xField w) (yField w)),
      (0x2, .andReg (xField w) (yField w)), (0x3, .xorReg (xField w) (yField w)),
      (0x4, .addReg (xField w) (yField w)), (0x5, .subReg (xField w) (yField w)),
      (0x6, .shrReg (xField w) (yField w)), (0x7, .subnReg (xField w) (yField w)),
      (0xE, .shlReg (xField w) (yField w))] := by
  unfold decodeFamily8 at h
  split at h <;> first | cases h; done | (rename_i hn; rw [hn, ← Except.ok.inj h]; simp)

/-- The words family E decodes (R88). -/
theorem decodeFamilyE_ok {w : Word} {i : Instr} (h : decodeFamilyE w = .ok i) :
    (kkField w, i) ∈ [(0x9E, .skp (xField w)), (0xA1, .sknp (xField w))] := by
  unfold decodeFamilyE at h
  split at h <;> first | cases h; done | (rename_i hn; rw [hn, ← Except.ok.inj h]; simp)

/-- The words family F decodes (R89). -/
theorem decodeFamilyF_ok {w : Word} {i : Instr} (h : decodeFamilyF w = .ok i) :
    (kkField w, i) ∈ [(0x07, .ldVxDt (xField w)), (0x0A, .ldVxK (xField w)), (0x15, .ldDtVx (xField w)),
      (0x18, .ldStVx (xField w)), (0x1E, .addI (xField w)), (0x29, .ldF (xField w)), (0x33, .ldB (xField w)),
      (0x55, .dump (xField w)), (0x65, .load (xField w))] := by
  unfold decodeFamilyF at h
  split at h <;> first | cases h; done | (rename_i hn; rw [hn, ← Except.ok.inj h]; simp)

end Sys2Proof
end

