-- ==== Sys2Proof/Laws/State.lean ====
section
/-! SUPPORT. What each named update of the state does to each field, and to what the accessors read. No later proof
unfolds a record update. -/

namespace Sys2Proof.Machine

/-! #### `setReg` -/

@[simp] theorem State.setReg_cfg (s : State) (x : Nibble) (b : Byte) :
    (s.setReg x b).cfg = s.cfg := rfl

@[simp] theorem State.setReg_v (s : State) (x : Nibble) (b : Byte) :
    (s.setReg x b).v = s.v.set x.toNat b x.isLt := rfl

@[simp] theorem State.setReg_i (s : State) (x : Nibble) (b : Byte) :
    (s.setReg x b).i = s.i := rfl

@[simp] theorem State.setReg_pc (s : State) (x : Nibble) (b : Byte) :
    (s.setReg x b).pc = s.pc := rfl

@[simp] theorem State.setReg_stack (s : State) (x : Nibble) (b : Byte) :
    (s.setReg x b).stack = s.stack := rfl

@[simp] theorem State.setReg_depth (s : State) (x : Nibble) (b : Byte) :
    (s.setReg x b).depth = s.depth := rfl

@[simp] theorem State.setReg_dt (s : State) (x : Nibble) (b : Byte) :
    (s.setReg x b).dt = s.dt := rfl

@[simp] theorem State.setReg_st (s : State) (x : Nibble) (b : Byte) :
    (s.setReg x b).st = s.st := rfl

@[simp] theorem State.setReg_display (s : State) (x : Nibble) (b : Byte) :
    (s.setReg x b).display = s.display := rfl

@[simp] theorem State.setReg_keys (s : State) (x : Nibble) (b : Byte) :
    (s.setReg x b).keys = s.keys := rfl

@[simp] theorem State.setReg_mem (s : State) (x : Nibble) (b : Byte) :
    (s.setReg x b).mem = s.mem := rfl

@[simp] theorem State.setReg_mode (s : State) (x : Nibble) (b : Byte) :
    (s.setReg x b).mode = s.mode := rfl

@[simp] theorem State.setReg_waitReg (s : State) (x : Nibble) (b : Byte) :
    (s.setReg x b).waitReg = s.waitReg := rfl

@[simp] theorem State.setReg_fault (s : State) (x : Nibble) (b : Byte) :
    (s.setReg x b).fault = s.fault := rfl

@[simp] theorem State.setReg_acc (s : State) (x : Nibble) (b : Byte) :
    (s.setReg x b).acc = s.acc := rfl

@[simp] theorem State.setReg_inputs (s : State) (x : Nibble) (b : Byte) :
    (s.setReg x b).inputs = s.inputs := rfl

@[simp] theorem State.setReg_draws (s : State) (x : Nibble) (b : Byte) :
    (s.setReg x b).draws = s.draws := rfl

@[simp] theorem State.setReg_readByte (s : State) (x : Nibble) (b : Byte) (n : Nat) :
    (s.setReg x b).readByte n = s.readByte n := rfl

@[simp] theorem State.setReg_pixel (s : State) (x : Nibble) (b : Byte) (col : Fin 64) (row : Fin 32) :
    (s.setReg x b).pixel col row = s.pixel col row := rfl

@[simp] theorem State.setReg_key (s : State) (x : Nibble) (b : Byte) (k : Nibble) :
    (s.setReg x b).key k = s.key k := rfl

/-! #### `setI` -/

@[simp] theorem State.setI_cfg (s : State) (a : Word) :
    (s.setI a).cfg = s.cfg := rfl

@[simp] theorem State.setI_v (s : State) (a : Word) :
    (s.setI a).v = s.v := rfl

@[simp] theorem State.setI_i (s : State) (a : Word) :
    (s.setI a).i = a := rfl

@[simp] theorem State.setI_pc (s : State) (a : Word) :
    (s.setI a).pc = s.pc := rfl

@[simp] theorem State.setI_stack (s : State) (a : Word) :
    (s.setI a).stack = s.stack := rfl

@[simp] theorem State.setI_depth (s : State) (a : Word) :
    (s.setI a).depth = s.depth := rfl

@[simp] theorem State.setI_dt (s : State) (a : Word) :
    (s.setI a).dt = s.dt := rfl

@[simp] theorem State.setI_st (s : State) (a : Word) :
    (s.setI a).st = s.st := rfl

@[simp] theorem State.setI_display (s : State) (a : Word) :
    (s.setI a).display = s.display := rfl

@[simp] theorem State.setI_keys (s : State) (a : Word) :
    (s.setI a).keys = s.keys := rfl

@[simp] theorem State.setI_mem (s : State) (a : Word) :
    (s.setI a).mem = s.mem := rfl

@[simp] theorem State.setI_mode (s : State) (a : Word) :
    (s.setI a).mode = s.mode := rfl

@[simp] theorem State.setI_waitReg (s : State) (a : Word) :
    (s.setI a).waitReg = s.waitReg := rfl

@[simp] theorem State.setI_fault (s : State) (a : Word) :
    (s.setI a).fault = s.fault := rfl

@[simp] theorem State.setI_acc (s : State) (a : Word) :
    (s.setI a).acc = s.acc := rfl

@[simp] theorem State.setI_inputs (s : State) (a : Word) :
    (s.setI a).inputs = s.inputs := rfl

@[simp] theorem State.setI_draws (s : State) (a : Word) :
    (s.setI a).draws = s.draws := rfl

@[simp] theorem State.setI_reg (s : State) (a : Word) (r : Nibble) :
    (s.setI a).reg r = s.reg r := rfl

@[simp] theorem State.setI_readByte (s : State) (a : Word) (n : Nat) :
    (s.setI a).readByte n = s.readByte n := rfl

@[simp] theorem State.setI_pixel (s : State) (a : Word) (col : Fin 64) (row : Fin 32) :
    (s.setI a).pixel col row = s.pixel col row := rfl

@[simp] theorem State.setI_key (s : State) (a : Word) (k : Nibble) :
    (s.setI a).key k = s.key k := rfl

/-! #### `setPc` -/

@[simp] theorem State.setPc_cfg (s : State) (p : Word) :
    (s.setPc p).cfg = s.cfg := rfl

@[simp] theorem State.setPc_v (s : State) (p : Word) :
    (s.setPc p).v = s.v := rfl

@[simp] theorem State.setPc_i (s : State) (p : Word) :
    (s.setPc p).i = s.i := rfl

@[simp] theorem State.setPc_pc (s : State) (p : Word) :
    (s.setPc p).pc = p := rfl

@[simp] theorem State.setPc_stack (s : State) (p : Word) :
    (s.setPc p).stack = s.stack := rfl

@[simp] theorem State.setPc_depth (s : State) (p : Word) :
    (s.setPc p).depth = s.depth := rfl

@[simp] theorem State.setPc_dt (s : State) (p : Word) :
    (s.setPc p).dt = s.dt := rfl

@[simp] theorem State.setPc_st (s : State) (p : Word) :
    (s.setPc p).st = s.st := rfl

@[simp] theorem State.setPc_display (s : State) (p : Word) :
    (s.setPc p).display = s.display := rfl

@[simp] theorem State.setPc_keys (s : State) (p : Word) :
    (s.setPc p).keys = s.keys := rfl

@[simp] theorem State.setPc_mem (s : State) (p : Word) :
    (s.setPc p).mem = s.mem := rfl

@[simp] theorem State.setPc_mode (s : State) (p : Word) :
    (s.setPc p).mode = s.mode := rfl

@[simp] theorem State.setPc_waitReg (s : State) (p : Word) :
    (s.setPc p).waitReg = s.waitReg := rfl

@[simp] theorem State.setPc_fault (s : State) (p : Word) :
    (s.setPc p).fault = s.fault := rfl

@[simp] theorem State.setPc_acc (s : State) (p : Word) :
    (s.setPc p).acc = s.acc := rfl

@[simp] theorem State.setPc_inputs (s : State) (p : Word) :
    (s.setPc p).inputs = s.inputs := rfl

@[simp] theorem State.setPc_draws (s : State) (p : Word) :
    (s.setPc p).draws = s.draws := rfl

@[simp] theorem State.setPc_reg (s : State) (p : Word) (r : Nibble) :
    (s.setPc p).reg r = s.reg r := rfl

@[simp] theorem State.setPc_readByte (s : State) (p : Word) (n : Nat) :
    (s.setPc p).readByte n = s.readByte n := rfl

@[simp] theorem State.setPc_pixel (s : State) (p : Word) (col : Fin 64) (row : Fin 32) :
    (s.setPc p).pixel col row = s.pixel col row := rfl

@[simp] theorem State.setPc_key (s : State) (p : Word) (k : Nibble) :
    (s.setPc p).key k = s.key k := rfl

/-! #### `setDt` -/

@[simp] theorem State.setDt_cfg (s : State) (b : Byte) :
    (s.setDt b).cfg = s.cfg := rfl

@[simp] theorem State.setDt_v (s : State) (b : Byte) :
    (s.setDt b).v = s.v := rfl

@[simp] theorem State.setDt_i (s : State) (b : Byte) :
    (s.setDt b).i = s.i := rfl

@[simp] theorem State.setDt_pc (s : State) (b : Byte) :
    (s.setDt b).pc = s.pc := rfl

@[simp] theorem State.setDt_stack (s : State) (b : Byte) :
    (s.setDt b).stack = s.stack := rfl

@[simp] theorem State.setDt_depth (s : State) (b : Byte) :
    (s.setDt b).depth = s.depth := rfl

@[simp] theorem State.setDt_dt (s : State) (b : Byte) :
    (s.setDt b).dt = b := rfl

@[simp] theorem State.setDt_st (s : State) (b : Byte) :
    (s.setDt b).st = s.st := rfl

@[simp] theorem State.setDt_display (s : State) (b : Byte) :
    (s.setDt b).display = s.display := rfl

@[simp] theorem State.setDt_keys (s : State) (b : Byte) :
    (s.setDt b).keys = s.keys := rfl

@[simp] theorem State.setDt_mem (s : State) (b : Byte) :
    (s.setDt b).mem = s.mem := rfl

@[simp] theorem State.setDt_mode (s : State) (b : Byte) :
    (s.setDt b).mode = s.mode := rfl

@[simp] theorem State.setDt_waitReg (s : State) (b : Byte) :
    (s.setDt b).waitReg = s.waitReg := rfl

@[simp] theorem State.setDt_fault (s : State) (b : Byte) :
    (s.setDt b).fault = s.fault := rfl

@[simp] theorem State.setDt_acc (s : State) (b : Byte) :
    (s.setDt b).acc = s.acc := rfl

@[simp] theorem State.setDt_inputs (s : State) (b : Byte) :
    (s.setDt b).inputs = s.inputs := rfl

@[simp] theorem State.setDt_draws (s : State) (b : Byte) :
    (s.setDt b).draws = s.draws := rfl

@[simp] theorem State.setDt_reg (s : State) (b : Byte) (r : Nibble) :
    (s.setDt b).reg r = s.reg r := rfl

@[simp] theorem State.setDt_readByte (s : State) (b : Byte) (n : Nat) :
    (s.setDt b).readByte n = s.readByte n := rfl

@[simp] theorem State.setDt_pixel (s : State) (b : Byte) (col : Fin 64) (row : Fin 32) :
    (s.setDt b).pixel col row = s.pixel col row := rfl

@[simp] theorem State.setDt_key (s : State) (b : Byte) (k : Nibble) :
    (s.setDt b).key k = s.key k := rfl

/-! #### `setSt` -/

@[simp] theorem State.setSt_cfg (s : State) (b : Byte) :
    (s.setSt b).cfg = s.cfg := rfl

@[simp] theorem State.setSt_v (s : State) (b : Byte) :
    (s.setSt b).v = s.v := rfl

@[simp] theorem State.setSt_i (s : State) (b : Byte) :
    (s.setSt b).i = s.i := rfl

@[simp] theorem State.setSt_pc (s : State) (b : Byte) :
    (s.setSt b).pc = s.pc := rfl

@[simp] theorem State.setSt_stack (s : State) (b : Byte) :
    (s.setSt b).stack = s.stack := rfl

@[simp] theorem State.setSt_depth (s : State) (b : Byte) :
    (s.setSt b).depth = s.depth := rfl

@[simp] theorem State.setSt_dt (s : State) (b : Byte) :
    (s.setSt b).dt = s.dt := rfl

@[simp] theorem State.setSt_st (s : State) (b : Byte) :
    (s.setSt b).st = b := rfl

@[simp] theorem State.setSt_display (s : State) (b : Byte) :
    (s.setSt b).display = s.display := rfl

@[simp] theorem State.setSt_keys (s : State) (b : Byte) :
    (s.setSt b).keys = s.keys := rfl

@[simp] theorem State.setSt_mem (s : State) (b : Byte) :
    (s.setSt b).mem = s.mem := rfl

@[simp] theorem State.setSt_mode (s : State) (b : Byte) :
    (s.setSt b).mode = s.mode := rfl

@[simp] theorem State.setSt_waitReg (s : State) (b : Byte) :
    (s.setSt b).waitReg = s.waitReg := rfl

@[simp] theorem State.setSt_fault (s : State) (b : Byte) :
    (s.setSt b).fault = s.fault := rfl

@[simp] theorem State.setSt_acc (s : State) (b : Byte) :
    (s.setSt b).acc = s.acc := rfl

@[simp] theorem State.setSt_inputs (s : State) (b : Byte) :
    (s.setSt b).inputs = s.inputs := rfl

@[simp] theorem State.setSt_draws (s : State) (b : Byte) :
    (s.setSt b).draws = s.draws := rfl

@[simp] theorem State.setSt_reg (s : State) (b : Byte) (r : Nibble) :
    (s.setSt b).reg r = s.reg r := rfl

@[simp] theorem State.setSt_readByte (s : State) (b : Byte) (n : Nat) :
    (s.setSt b).readByte n = s.readByte n := rfl

@[simp] theorem State.setSt_pixel (s : State) (b : Byte) (col : Fin 64) (row : Fin 32) :
    (s.setSt b).pixel col row = s.pixel col row := rfl

@[simp] theorem State.setSt_key (s : State) (b : Byte) (k : Nibble) :
    (s.setSt b).key k = s.key k := rfl

/-! #### `setDisplay` -/

@[simp] theorem State.setDisplay_cfg (s : State) (d : Vector (BitVec 64) 32) :
    (s.setDisplay d).cfg = s.cfg := rfl

@[simp] theorem State.setDisplay_v (s : State) (d : Vector (BitVec 64) 32) :
    (s.setDisplay d).v = s.v := rfl

@[simp] theorem State.setDisplay_i (s : State) (d : Vector (BitVec 64) 32) :
    (s.setDisplay d).i = s.i := rfl

@[simp] theorem State.setDisplay_pc (s : State) (d : Vector (BitVec 64) 32) :
    (s.setDisplay d).pc = s.pc := rfl

@[simp] theorem State.setDisplay_stack (s : State) (d : Vector (BitVec 64) 32) :
    (s.setDisplay d).stack = s.stack := rfl

@[simp] theorem State.setDisplay_depth (s : State) (d : Vector (BitVec 64) 32) :
    (s.setDisplay d).depth = s.depth := rfl

@[simp] theorem State.setDisplay_dt (s : State) (d : Vector (BitVec 64) 32) :
    (s.setDisplay d).dt = s.dt := rfl

@[simp] theorem State.setDisplay_st (s : State) (d : Vector (BitVec 64) 32) :
    (s.setDisplay d).st = s.st := rfl

@[simp] theorem State.setDisplay_display (s : State) (d : Vector (BitVec 64) 32) :
    (s.setDisplay d).display = d := rfl

@[simp] theorem State.setDisplay_keys (s : State) (d : Vector (BitVec 64) 32) :
    (s.setDisplay d).keys = s.keys := rfl

@[simp] theorem State.setDisplay_mem (s : State) (d : Vector (BitVec 64) 32) :
    (s.setDisplay d).mem = s.mem := rfl

@[simp] theorem State.setDisplay_mode (s : State) (d : Vector (BitVec 64) 32) :
    (s.setDisplay d).mode = s.mode := rfl

@[simp] theorem State.setDisplay_waitReg (s : State) (d : Vector (BitVec 64) 32) :
    (s.setDisplay d).waitReg = s.waitReg := rfl

@[simp] theorem State.setDisplay_fault (s : State) (d : Vector (BitVec 64) 32) :
    (s.setDisplay d).fault = s.fault := rfl

@[simp] theorem State.setDisplay_acc (s : State) (d : Vector (BitVec 64) 32) :
    (s.setDisplay d).acc = s.acc := rfl

@[simp] theorem State.setDisplay_inputs (s : State) (d : Vector (BitVec 64) 32) :
    (s.setDisplay d).inputs = s.inputs := rfl

@[simp] theorem State.setDisplay_draws (s : State) (d : Vector (BitVec 64) 32) :
    (s.setDisplay d).draws = s.draws := rfl

@[simp] theorem State.setDisplay_reg (s : State) (d : Vector (BitVec 64) 32) (r : Nibble) :
    (s.setDisplay d).reg r = s.reg r := rfl

@[simp] theorem State.setDisplay_readByte (s : State) (d : Vector (BitVec 64) 32) (n : Nat) :
    (s.setDisplay d).readByte n = s.readByte n := rfl

@[simp] theorem State.setDisplay_key (s : State) (d : Vector (BitVec 64) 32) (k : Nibble) :
    (s.setDisplay d).key k = s.key k := rfl

/-! #### `writeBytes` -/

@[simp] theorem State.writeBytes_cfg (s : State) (a : Nat) (bs : List Byte) :
    (s.writeBytes a bs).cfg = s.cfg := rfl

@[simp] theorem State.writeBytes_v (s : State) (a : Nat) (bs : List Byte) :
    (s.writeBytes a bs).v = s.v := rfl

@[simp] theorem State.writeBytes_i (s : State) (a : Nat) (bs : List Byte) :
    (s.writeBytes a bs).i = s.i := rfl

@[simp] theorem State.writeBytes_pc (s : State) (a : Nat) (bs : List Byte) :
    (s.writeBytes a bs).pc = s.pc := rfl

@[simp] theorem State.writeBytes_stack (s : State) (a : Nat) (bs : List Byte) :
    (s.writeBytes a bs).stack = s.stack := rfl

@[simp] theorem State.writeBytes_depth (s : State) (a : Nat) (bs : List Byte) :
    (s.writeBytes a bs).depth = s.depth := rfl

@[simp] theorem State.writeBytes_dt (s : State) (a : Nat) (bs : List Byte) :
    (s.writeBytes a bs).dt = s.dt := rfl

@[simp] theorem State.writeBytes_st (s : State) (a : Nat) (bs : List Byte) :
    (s.writeBytes a bs).st = s.st := rfl

@[simp] theorem State.writeBytes_display (s : State) (a : Nat) (bs : List Byte) :
    (s.writeBytes a bs).display = s.display := rfl

@[simp] theorem State.writeBytes_keys (s : State) (a : Nat) (bs : List Byte) :
    (s.writeBytes a bs).keys = s.keys := rfl

@[simp] theorem State.writeBytes_mem (s : State) (a : Nat) (bs : List Byte) :
    (s.writeBytes a bs).mem = Memory.writeBytes s.cfg s.mem a bs := rfl

@[simp] theorem State.writeBytes_mode (s : State) (a : Nat) (bs : List Byte) :
    (s.writeBytes a bs).mode = s.mode := rfl

@[simp] theorem State.writeBytes_waitReg (s : State) (a : Nat) (bs : List Byte) :
    (s.writeBytes a bs).waitReg = s.waitReg := rfl

@[simp] theorem State.writeBytes_fault (s : State) (a : Nat) (bs : List Byte) :
    (s.writeBytes a bs).fault = s.fault := rfl

@[simp] theorem State.writeBytes_acc (s : State) (a : Nat) (bs : List Byte) :
    (s.writeBytes a bs).acc = s.acc := rfl

@[simp] theorem State.writeBytes_inputs (s : State) (a : Nat) (bs : List Byte) :
    (s.writeBytes a bs).inputs = s.inputs := rfl

@[simp] theorem State.writeBytes_draws (s : State) (a : Nat) (bs : List Byte) :
    (s.writeBytes a bs).draws = s.draws := rfl

@[simp] theorem State.writeBytes_reg (s : State) (a : Nat) (bs : List Byte) (r : Nibble) :
    (s.writeBytes a bs).reg r = s.reg r := rfl

@[simp] theorem State.writeBytes_pixel (s : State) (a : Nat) (bs : List Byte) (col : Fin 64) (row : Fin 32) :
    (s.writeBytes a bs).pixel col row = s.pixel col row := rfl

@[simp] theorem State.writeBytes_key (s : State) (a : Nat) (bs : List Byte) (k : Nibble) :
    (s.writeBytes a bs).key k = s.key k := rfl

/-! #### `loadRegs` -/

@[simp] theorem State.loadRegs_cfg (s : State) (a : Nat) (x : Nibble) :
    (s.loadRegs a x).cfg = s.cfg := rfl

@[simp] theorem State.loadRegs_i (s : State) (a : Nat) (x : Nibble) :
    (s.loadRegs a x).i = s.i := rfl

@[simp] theorem State.loadRegs_pc (s : State) (a : Nat) (x : Nibble) :
    (s.loadRegs a x).pc = s.pc := rfl

@[simp] theorem State.loadRegs_stack (s : State) (a : Nat) (x : Nibble) :
    (s.loadRegs a x).stack = s.stack := rfl

@[simp] theorem State.loadRegs_depth (s : State) (a : Nat) (x : Nibble) :
    (s.loadRegs a x).depth = s.depth := rfl

@[simp] theorem State.loadRegs_dt (s : State) (a : Nat) (x : Nibble) :
    (s.loadRegs a x).dt = s.dt := rfl

@[simp] theorem State.loadRegs_st (s : State) (a : Nat) (x : Nibble) :
    (s.loadRegs a x).st = s.st := rfl

@[simp] theorem State.loadRegs_display (s : State) (a : Nat) (x : Nibble) :
    (s.loadRegs a x).display = s.display := rfl

@[simp] theorem State.loadRegs_keys (s : State) (a : Nat) (x : Nibble) :
    (s.loadRegs a x).keys = s.keys := rfl

@[simp] theorem State.loadRegs_mem (s : State) (a : Nat) (x : Nibble) :
    (s.loadRegs a x).mem = s.mem := rfl

@[simp] theorem State.loadRegs_mode (s : State) (a : Nat) (x : Nibble) :
    (s.loadRegs a x).mode = s.mode := rfl

@[simp] theorem State.loadRegs_waitReg (s : State) (a : Nat) (x : Nibble) :
    (s.loadRegs a x).waitReg = s.waitReg := rfl

@[simp] theorem State.loadRegs_fault (s : State) (a : Nat) (x : Nibble) :
    (s.loadRegs a x).fault = s.fault := rfl

@[simp] theorem State.loadRegs_acc (s : State) (a : Nat) (x : Nibble) :
    (s.loadRegs a x).acc = s.acc := rfl

@[simp] theorem State.loadRegs_inputs (s : State) (a : Nat) (x : Nibble) :
    (s.loadRegs a x).inputs = s.inputs := rfl

@[simp] theorem State.loadRegs_draws (s : State) (a : Nat) (x : Nibble) :
    (s.loadRegs a x).draws = s.draws := rfl

@[simp] theorem State.loadRegs_readByte (s : State) (a : Nat) (x : Nibble) (n : Nat) :
    (s.loadRegs a x).readByte n = s.readByte n := rfl

@[simp] theorem State.loadRegs_pixel (s : State) (a : Nat) (x : Nibble) (col : Fin 64) (row : Fin 32) :
    (s.loadRegs a x).pixel col row = s.pixel col row := rfl

@[simp] theorem State.loadRegs_key (s : State) (a : Nat) (x : Nibble) (k : Nibble) :
    (s.loadRegs a x).key k = s.key k := rfl

/-! #### `await` -/

@[simp] theorem State.await_cfg (s : State) (x : Nibble) :
    (s.await x).cfg = s.cfg := rfl

@[simp] theorem State.await_v (s : State) (x : Nibble) :
    (s.await x).v = s.v := rfl

@[simp] theorem State.await_i (s : State) (x : Nibble) :
    (s.await x).i = s.i := rfl

@[simp] theorem State.await_pc (s : State) (x : Nibble) :
    (s.await x).pc = s.pc := rfl

@[simp] theorem State.await_stack (s : State) (x : Nibble) :
    (s.await x).stack = s.stack := rfl

@[simp] theorem State.await_depth (s : State) (x : Nibble) :
    (s.await x).depth = s.depth := rfl

@[simp] theorem State.await_dt (s : State) (x : Nibble) :
    (s.await x).dt = s.dt := rfl

@[simp] theorem State.await_st (s : State) (x : Nibble) :
    (s.await x).st = s.st := rfl

@[simp] theorem State.await_display (s : State) (x : Nibble) :
    (s.await x).display = s.display := rfl

@[simp] theorem State.await_keys (s : State) (x : Nibble) :
    (s.await x).keys = s.keys := rfl

@[simp] theorem State.await_mem (s : State) (x : Nibble) :
    (s.await x).mem = s.mem := rfl

@[simp] theorem State.await_mode (s : State) (x : Nibble) :
    (s.await x).mode = .waitingForKey := rfl

@[simp] theorem State.await_waitReg (s : State) (x : Nibble) :
    (s.await x).waitReg = x := rfl

@[simp] theorem State.await_fault (s : State) (x : Nibble) :
    (s.await x).fault = s.fault := rfl

@[simp] theorem State.await_acc (s : State) (x : Nibble) :
    (s.await x).acc = s.acc := rfl

@[simp] theorem State.await_inputs (s : State) (x : Nibble) :
    (s.await x).inputs = s.inputs := rfl

@[simp] theorem State.await_draws (s : State) (x : Nibble) :
    (s.await x).draws = s.draws := rfl

@[simp] theorem State.await_reg (s : State) (x : Nibble) (r : Nibble) :
    (s.await x).reg r = s.reg r := rfl

@[simp] theorem State.await_readByte (s : State) (x : Nibble) (n : Nat) :
    (s.await x).readByte n = s.readByte n := rfl

@[simp] theorem State.await_pixel (s : State) (x : Nibble) (col : Fin 64) (row : Fin 32) :
    (s.await x).pixel col row = s.pixel col row := rfl

@[simp] theorem State.await_key (s : State) (x : Nibble) (k : Nibble) :
    (s.await x).key k = s.key k := rfl

/-! #### `deliver` -/

@[simp] theorem State.deliver_cfg (s : State) (code : Nibble) :
    (s.deliver code).cfg = s.cfg := rfl

@[simp] theorem State.deliver_v (s : State) (code : Nibble) :
    (s.deliver code).v = s.v.set s.waitReg.toNat (code.setWidth 8) s.waitReg.isLt := rfl

@[simp] theorem State.deliver_i (s : State) (code : Nibble) :
    (s.deliver code).i = s.i := rfl

@[simp] theorem State.deliver_pc (s : State) (code : Nibble) :
    (s.deliver code).pc = s.pc := rfl

@[simp] theorem State.deliver_stack (s : State) (code : Nibble) :
    (s.deliver code).stack = s.stack := rfl

@[simp] theorem State.deliver_depth (s : State) (code : Nibble) :
    (s.deliver code).depth = s.depth := rfl

@[simp] theorem State.deliver_dt (s : State) (code : Nibble) :
    (s.deliver code).dt = s.dt := rfl

@[simp] theorem State.deliver_st (s : State) (code : Nibble) :
    (s.deliver code).st = s.st := rfl

@[simp] theorem State.deliver_display (s : State) (code : Nibble) :
    (s.deliver code).display = s.display := rfl

@[simp] theorem State.deliver_keys (s : State) (code : Nibble) :
    (s.deliver code).keys = s.keys := rfl

@[simp] theorem State.deliver_mem (s : State) (code : Nibble) :
    (s.deliver code).mem = s.mem := rfl

@[simp] theorem State.deliver_mode (s : State) (code : Nibble) :
    (s.deliver code).mode = .running := rfl

@[simp] theorem State.deliver_waitReg (s : State) (code : Nibble) :
    (s.deliver code).waitReg = s.waitReg := rfl

@[simp] theorem State.deliver_fault (s : State) (code : Nibble) :
    (s.deliver code).fault = s.fault := rfl

@[simp] theorem State.deliver_acc (s : State) (code : Nibble) :
    (s.deliver code).acc = s.acc := rfl

@[simp] theorem State.deliver_inputs (s : State) (code : Nibble) :
    (s.deliver code).inputs = s.inputs := rfl

@[simp] theorem State.deliver_draws (s : State) (code : Nibble) :
    (s.deliver code).draws = s.draws := rfl

@[simp] theorem State.deliver_readByte (s : State) (code : Nibble) (n : Nat) :
    (s.deliver code).readByte n = s.readByte n := rfl

@[simp] theorem State.deliver_pixel (s : State) (code : Nibble) (col : Fin 64) (row : Fin 32) :
    (s.deliver code).pixel col row = s.pixel col row := rfl

@[simp] theorem State.deliver_key (s : State) (code : Nibble) (k : Nibble) :
    (s.deliver code).key k = s.key k := rfl

/-! #### `halt` -/

@[simp] theorem State.halt_cfg (s : State) (e : Raise) :
    (s.halt e).cfg = s.cfg := rfl

@[simp] theorem State.halt_v (s : State) (e : Raise) :
    (s.halt e).v = s.v := rfl

@[simp] theorem State.halt_i (s : State) (e : Raise) :
    (s.halt e).i = s.i := rfl

@[simp] theorem State.halt_pc (s : State) (e : Raise) :
    (s.halt e).pc = s.pc := rfl

@[simp] theorem State.halt_stack (s : State) (e : Raise) :
    (s.halt e).stack = s.stack := rfl

@[simp] theorem State.halt_depth (s : State) (e : Raise) :
    (s.halt e).depth = s.depth := rfl

@[simp] theorem State.halt_dt (s : State) (e : Raise) :
    (s.halt e).dt = s.dt := rfl

@[simp] theorem State.halt_st (s : State) (e : Raise) :
    (s.halt e).st = s.st := rfl

@[simp] theorem State.halt_display (s : State) (e : Raise) :
    (s.halt e).display = s.display := rfl

@[simp] theorem State.halt_keys (s : State) (e : Raise) :
    (s.halt e).keys = s.keys := rfl

@[simp] theorem State.halt_mem (s : State) (e : Raise) :
    (s.halt e).mem = s.mem := rfl

@[simp] theorem State.halt_mode (s : State) (e : Raise) :
    (s.halt e).mode = .haltedFatal := rfl

@[simp] theorem State.halt_waitReg (s : State) (e : Raise) :
    (s.halt e).waitReg = s.waitReg := rfl

@[simp] theorem State.halt_fault (s : State) (e : Raise) :
    (s.halt e).fault = some { kind := e.kind, faultPc := s.pc, inst := s.fetchWord, value := e.value } := rfl

@[simp] theorem State.halt_acc (s : State) (e : Raise) :
    (s.halt e).acc = s.acc := rfl

@[simp] theorem State.halt_inputs (s : State) (e : Raise) :
    (s.halt e).inputs = s.inputs := rfl

@[simp] theorem State.halt_draws (s : State) (e : Raise) :
    (s.halt e).draws = s.draws := rfl

@[simp] theorem State.halt_reg (s : State) (e : Raise) (r : Nibble) :
    (s.halt e).reg r = s.reg r := rfl

@[simp] theorem State.halt_readByte (s : State) (e : Raise) (n : Nat) :
    (s.halt e).readByte n = s.readByte n := rfl

@[simp] theorem State.halt_pixel (s : State) (e : Raise) (col : Fin 64) (row : Fin 32) :
    (s.halt e).pixel col row = s.pixel col row := rfl

@[simp] theorem State.halt_key (s : State) (e : Raise) (k : Nibble) :
    (s.halt e).key k = s.key k := rfl

/-! #### `tick` -/

@[simp] theorem State.tick_cfg (s : State) :
    s.tick.cfg = s.cfg := rfl

@[simp] theorem State.tick_v (s : State) :
    s.tick.v = s.v := rfl

@[simp] theorem State.tick_i (s : State) :
    s.tick.i = s.i := rfl

@[simp] theorem State.tick_pc (s : State) :
    s.tick.pc = s.pc := rfl

@[simp] theorem State.tick_stack (s : State) :
    s.tick.stack = s.stack := rfl

@[simp] theorem State.tick_depth (s : State) :
    s.tick.depth = s.depth := rfl

@[simp] theorem State.tick_dt (s : State) :
    s.tick.dt = tickTimer s.dt s.boundaries := rfl

@[simp] theorem State.tick_st (s : State) :
    s.tick.st = tickTimer s.st s.boundaries := rfl

@[simp] theorem State.tick_display (s : State) :
    s.tick.display = s.display := rfl

@[simp] theorem State.tick_keys (s : State) :
    s.tick.keys = s.keys := rfl

@[simp] theorem State.tick_mem (s : State) :
    s.tick.mem = s.mem := rfl

@[simp] theorem State.tick_mode (s : State) :
    s.tick.mode = s.mode := rfl

@[simp] theorem State.tick_waitReg (s : State) :
    s.tick.waitReg = s.waitReg := rfl

@[simp] theorem State.tick_fault (s : State) :
    s.tick.fault = s.fault := rfl

@[simp] theorem State.tick_acc (s : State) :
    s.tick.acc = (s.acc + 60) % s.cfg.clockHz := rfl

@[simp] theorem State.tick_inputs (s : State) :
    s.tick.inputs = s.inputs := rfl

@[simp] theorem State.tick_draws (s : State) :
    s.tick.draws = s.draws := rfl

@[simp] theorem State.tick_reg (s : State) (r : Nibble) :
    s.tick.reg r = s.reg r := rfl

@[simp] theorem State.tick_readByte (s : State) (n : Nat) :
    s.tick.readByte n = s.readByte n := rfl

@[simp] theorem State.tick_pixel (s : State) (col : Fin 64) (row : Fin 32) :
    s.tick.pixel col row = s.pixel col row := rfl

@[simp] theorem State.tick_key (s : State) (k : Nibble) :
    s.tick.key k = s.key k := rfl

/-! #### `takeInput` -/

@[simp] theorem State.takeInput_cfg (s : State) :
    s.takeInput.cfg = s.cfg := by
  unfold State.takeInput; split <;> rfl

@[simp] theorem State.takeInput_v (s : State) :
    s.takeInput.v = s.v := by
  unfold State.takeInput; split <;> rfl

@[simp] theorem State.takeInput_i (s : State) :
    s.takeInput.i = s.i := by
  unfold State.takeInput; split <;> rfl

@[simp] theorem State.takeInput_pc (s : State) :
    s.takeInput.pc = s.pc := by
  unfold State.takeInput; split <;> rfl

@[simp] theorem State.takeInput_stack (s : State) :
    s.takeInput.stack = s.stack := by
  unfold State.takeInput; split <;> rfl

@[simp] theorem State.takeInput_depth (s : State) :
    s.takeInput.depth = s.depth := by
  unfold State.takeInput; split <;> rfl

@[simp] theorem State.takeInput_dt (s : State) :
    s.takeInput.dt = s.dt := by
  unfold State.takeInput; split <;> rfl

@[simp] theorem State.takeInput_st (s : State) :
    s.takeInput.st = s.st := by
  unfold State.takeInput; split <;> rfl

@[simp] theorem State.takeInput_display (s : State) :
    s.takeInput.display = s.display := by
  unfold State.takeInput; split <;> rfl

@[simp] theorem State.takeInput_keys (s : State) :
    s.takeInput.keys = s.keys := by
  unfold State.takeInput; split <;> rfl

@[simp] theorem State.takeInput_mem (s : State) :
    s.takeInput.mem = s.mem := by
  unfold State.takeInput; split <;> rfl

@[simp] theorem State.takeInput_mode (s : State) :
    s.takeInput.mode = s.mode := by
  unfold State.takeInput; split <;> rfl

@[simp] theorem State.takeInput_waitReg (s : State) :
    s.takeInput.waitReg = s.waitReg := by
  unfold State.takeInput; split <;> rfl

@[simp] theorem State.takeInput_fault (s : State) :
    s.takeInput.fault = s.fault := by
  unfold State.takeInput; split <;> rfl

@[simp] theorem State.takeInput_acc (s : State) :
    s.takeInput.acc = s.acc := by
  unfold State.takeInput; split <;> rfl

@[simp] theorem State.takeInput_reg (s : State) (r : Nibble) :
    s.takeInput.reg r = s.reg r := by
  unfold State.takeInput; split <;> rfl

@[simp] theorem State.takeInput_readByte (s : State) (n : Nat) :
    s.takeInput.readByte n = s.readByte n := by
  unfold State.takeInput; split <;> rfl

@[simp] theorem State.takeInput_pixel (s : State) (col : Fin 64) (row : Fin 32) :
    s.takeInput.pixel col row = s.pixel col row := by
  unfold State.takeInput; split <;> rfl

@[simp] theorem State.takeInput_key (s : State) (k : Nibble) :
    s.takeInput.key k = s.key k := by
  unfold State.takeInput; split <;> rfl

/-! #### `sample` -/

@[simp] theorem State.sample_cfg (s : State) :
    s.sample.cfg = s.cfg := State.takeInput_cfg s

@[simp] theorem State.sample_v (s : State) :
    s.sample.v = s.v := State.takeInput_v s

@[simp] theorem State.sample_i (s : State) :
    s.sample.i = s.i := State.takeInput_i s

@[simp] theorem State.sample_pc (s : State) :
    s.sample.pc = s.pc := State.takeInput_pc s

@[simp] theorem State.sample_stack (s : State) :
    s.sample.stack = s.stack := State.takeInput_stack s

@[simp] theorem State.sample_depth (s : State) :
    s.sample.depth = s.depth := State.takeInput_depth s

@[simp] theorem State.sample_dt (s : State) :
    s.sample.dt = s.dt := State.takeInput_dt s

@[simp] theorem State.sample_st (s : State) :
    s.sample.st = s.st := State.takeInput_st s

@[simp] theorem State.sample_display (s : State) :
    s.sample.display = s.display := State.takeInput_display s

@[simp] theorem State.sample_keys (s : State) :
    s.sample.keys = s.nextInput.keys := rfl

@[simp] theorem State.sample_mem (s : State) :
    s.sample.mem = s.mem := State.takeInput_mem s

@[simp] theorem State.sample_mode (s : State) :
    s.sample.mode = s.mode := State.takeInput_mode s

@[simp] theorem State.sample_waitReg (s : State) :
    s.sample.waitReg = s.waitReg := State.takeInput_waitReg s

@[simp] theorem State.sample_fault (s : State) :
    s.sample.fault = s.fault := State.takeInput_fault s

@[simp] theorem State.sample_acc (s : State) :
    s.sample.acc = s.acc := State.takeInput_acc s

@[simp] theorem State.sample_inputs (s : State) :
    s.sample.inputs = s.takeInput.inputs := rfl

@[simp] theorem State.sample_draws (s : State) :
    s.sample.draws = s.takeInput.draws := rfl

@[simp] theorem State.sample_reg (s : State) (r : Nibble) :
    s.sample.reg r = s.reg r := State.takeInput_reg s r

@[simp] theorem State.sample_readByte (s : State) (n : Nat) :
    s.sample.readByte n = s.readByte n := State.takeInput_readByte s n

@[simp] theorem State.sample_pixel (s : State) (col : Fin 64) (row : Fin 32) :
    s.sample.pixel col row = s.pixel col row := State.takeInput_pixel s col row

/-! #### `enter` -/

@[simp] theorem State.enter_cfg (s : State) :
    s.enter.cfg = s.cfg := State.takeInput_cfg s

@[simp] theorem State.enter_v (s : State) :
    s.enter.v = s.v := State.takeInput_v s

@[simp] theorem State.enter_i (s : State) :
    s.enter.i = s.i := State.takeInput_i s

@[simp] theorem State.enter_pc (s : State) :
    s.enter.pc = s.pc + 2 := rfl

@[simp] theorem State.enter_stack (s : State) :
    s.enter.stack = s.stack := State.takeInput_stack s

@[simp] theorem State.enter_depth (s : State) :
    s.enter.depth = s.depth := State.takeInput_depth s

@[simp] theorem State.enter_dt (s : State) :
    s.enter.dt = s.dt := State.takeInput_dt s

@[simp] theorem State.enter_st (s : State) :
    s.enter.st = s.st := State.takeInput_st s

@[simp] theorem State.enter_display (s : State) :
    s.enter.display = s.display := State.takeInput_display s

@[simp] theorem State.enter_keys (s : State) :
    s.enter.keys = s.nextInput.keys := rfl

@[simp] theorem State.enter_mem (s : State) :
    s.enter.mem = s.mem := State.takeInput_mem s

@[simp] theorem State.enter_mode (s : State) :
    s.enter.mode = s.mode := State.takeInput_mode s

@[simp] theorem State.enter_waitReg (s : State) :
    s.enter.waitReg = s.waitReg := State.takeInput_waitReg s

@[simp] theorem State.enter_fault (s : State) :
    s.enter.fault = s.fault := State.takeInput_fault s

@[simp] theorem State.enter_acc (s : State) :
    s.enter.acc = s.acc := State.takeInput_acc s

@[simp] theorem State.enter_inputs (s : State) :
    s.enter.inputs = s.takeInput.inputs := rfl

@[simp] theorem State.enter_draws (s : State) :
    s.enter.draws = s.takeInput.draws := rfl

@[simp] theorem State.enter_reg (s : State) (r : Nibble) :
    s.enter.reg r = s.reg r := State.takeInput_reg s r

@[simp] theorem State.enter_readByte (s : State) (n : Nat) :
    s.enter.readByte n = s.readByte n := State.takeInput_readByte s n

@[simp] theorem State.enter_pixel (s : State) (col : Fin 64) (row : Fin 32) :
    s.enter.pixel col row = s.pixel col row := State.takeInput_pixel s col row

/-! #### `setFlag` -/

@[simp] theorem State.setFlag_cfg (s : State) (f : Bool) :
    (s.setFlag f).cfg = s.cfg := rfl

@[simp] theorem State.setFlag_v (s : State) (f : Bool) :
    (s.setFlag f).v = s.v.set 15 (flagByte f) := rfl

@[simp] theorem State.setFlag_i (s : State) (f : Bool) :
    (s.setFlag f).i = s.i := rfl

@[simp] theorem State.setFlag_pc (s : State) (f : Bool) :
    (s.setFlag f).pc = s.pc := rfl

@[simp] theorem State.setFlag_stack (s : State) (f : Bool) :
    (s.setFlag f).stack = s.stack := rfl

@[simp] theorem State.setFlag_depth (s : State) (f : Bool) :
    (s.setFlag f).depth = s.depth := rfl

@[simp] theorem State.setFlag_dt (s : State) (f : Bool) :
    (s.setFlag f).dt = s.dt := rfl

@[simp] theorem State.setFlag_st (s : State) (f : Bool) :
    (s.setFlag f).st = s.st := rfl

@[simp] theorem State.setFlag_display (s : State) (f : Bool) :
    (s.setFlag f).display = s.display := rfl

@[simp] theorem State.setFlag_keys (s : State) (f : Bool) :
    (s.setFlag f).keys = s.keys := rfl

@[simp] theorem State.setFlag_mem (s : State) (f : Bool) :
    (s.setFlag f).mem = s.mem := rfl

@[simp] theorem State.setFlag_mode (s : State) (f : Bool) :
    (s.setFlag f).mode = s.mode := rfl

@[simp] theorem State.setFlag_waitReg (s : State) (f : Bool) :
    (s.setFlag f).waitReg = s.waitReg := rfl

@[simp] theorem State.setFlag_fault (s : State) (f : Bool) :
    (s.setFlag f).fault = s.fault := rfl

@[simp] theorem State.setFlag_acc (s : State) (f : Bool) :
    (s.setFlag f).acc = s.acc := rfl

@[simp] theorem State.setFlag_inputs (s : State) (f : Bool) :
    (s.setFlag f).inputs = s.inputs := rfl

@[simp] theorem State.setFlag_draws (s : State) (f : Bool) :
    (s.setFlag f).draws = s.draws := rfl

@[simp] theorem State.setFlag_readByte (s : State) (f : Bool) (n : Nat) :
    (s.setFlag f).readByte n = s.readByte n := rfl

@[simp] theorem State.setFlag_pixel (s : State) (f : Bool) (col : Fin 64) (row : Fin 32) :
    (s.setFlag f).pixel col row = s.pixel col row := rfl

@[simp] theorem State.setFlag_key (s : State) (f : Bool) (k : Nibble) :
    (s.setFlag f).key k = s.key k := rfl

/-! #### `setResult` -/

@[simp] theorem State.setResult_cfg (s : State) (x : Nibble) (b : Byte) (f : Bool) :
    (s.setResult x b f).cfg = s.cfg := rfl

@[simp] theorem State.setResult_i (s : State) (x : Nibble) (b : Byte) (f : Bool) :
    (s.setResult x b f).i = s.i := rfl

@[simp] theorem State.setResult_pc (s : State) (x : Nibble) (b : Byte) (f : Bool) :
    (s.setResult x b f).pc = s.pc := rfl

@[simp] theorem State.setResult_stack (s : State) (x : Nibble) (b : Byte) (f : Bool) :
    (s.setResult x b f).stack = s.stack := rfl

@[simp] theorem State.setResult_depth (s : State) (x : Nibble) (b : Byte) (f : Bool) :
    (s.setResult x b f).depth = s.depth := rfl

@[simp] theorem State.setResult_dt (s : State) (x : Nibble) (b : Byte) (f : Bool) :
    (s.setResult x b f).dt = s.dt := rfl

@[simp] theorem State.setResult_st (s : State) (x : Nibble) (b : Byte) (f : Bool) :
    (s.setResult x b f).st = s.st := rfl

@[simp] theorem State.setResult_display (s : State) (x : Nibble) (b : Byte) (f : Bool) :
    (s.setResult x b f).display = s.display := rfl

@[simp] theorem State.setResult_keys (s : State) (x : Nibble) (b : Byte) (f : Bool) :
    (s.setResult x b f).keys = s.keys := rfl

@[simp] theorem State.setResult_mem (s : State) (x : Nibble) (b : Byte) (f : Bool) :
    (s.setResult x b f).mem = s.mem := rfl

@[simp] theorem State.setResult_mode (s : State) (x : Nibble) (b : Byte) (f : Bool) :
    (s.setResult x b f).mode = s.mode := rfl

@[simp] theorem State.setResult_waitReg (s : State) (x : Nibble) (b : Byte) (f : Bool) :
    (s.setResult x b f).waitReg = s.waitReg := rfl

@[simp] theorem State.setResult_fault (s : State) (x : Nibble) (b : Byte) (f : Bool) :
    (s.setResult x b f).fault = s.fault := rfl

@[simp] theorem State.setResult_acc (s : State) (x : Nibble) (b : Byte) (f : Bool) :
    (s.setResult x b f).acc = s.acc := rfl

@[simp] theorem State.setResult_inputs (s : State) (x : Nibble) (b : Byte) (f : Bool) :
    (s.setResult x b f).inputs = s.inputs := rfl

@[simp] theorem State.setResult_draws (s : State) (x : Nibble) (b : Byte) (f : Bool) :
    (s.setResult x b f).draws = s.draws := rfl

@[simp] theorem State.setResult_readByte (s : State) (x : Nibble) (b : Byte) (f : Bool) (n : Nat) :
    (s.setResult x b f).readByte n = s.readByte n := rfl

@[simp] theorem State.setResult_pixel (s : State) (x : Nibble) (b : Byte) (f : Bool) (col : Fin 64) (row : Fin 32) :
    (s.setResult x b f).pixel col row = s.pixel col row := rfl

@[simp] theorem State.setResult_key (s : State) (x : Nibble) (b : Byte) (f : Bool) (k : Nibble) :
    (s.setResult x b f).key k = s.key k := rfl

/-! #### `skipIf` -/

@[simp] theorem State.skipIf_cfg (s : State) (b : Bool) :
    (s.skipIf b).cfg = s.cfg := by
  unfold State.skipIf; split <;> rfl

@[simp] theorem State.skipIf_v (s : State) (b : Bool) :
    (s.skipIf b).v = s.v := by
  unfold State.skipIf; split <;> rfl

@[simp] theorem State.skipIf_i (s : State) (b : Bool) :
    (s.skipIf b).i = s.i := by
  unfold State.skipIf; split <;> rfl

@[simp] theorem State.skipIf_pc (s : State) (b : Bool) :
    (s.skipIf b).pc = if b then s.pc + 2 else s.pc := by
  unfold State.skipIf; split <;> rfl

@[simp] theorem State.skipIf_stack (s : State) (b : Bool) :
    (s.skipIf b).stack = s.stack := by
  unfold State.skipIf; split <;> rfl

@[simp] theorem State.skipIf_depth (s : State) (b : Bool) :
    (s.skipIf b).depth = s.depth := by
  unfold State.skipIf; split <;> rfl

@[simp] theorem State.skipIf_dt (s : State) (b : Bool) :
    (s.skipIf b).dt = s.dt := by
  unfold State.skipIf; split <;> rfl

@[simp] theorem State.skipIf_st (s : State) (b : Bool) :
    (s.skipIf b).st = s.st := by
  unfold State.skipIf; split <;> rfl

@[simp] theorem State.skipIf_display (s : State) (b : Bool) :
    (s.skipIf b).display = s.display := by
  unfold State.skipIf; split <;> rfl

@[simp] theorem State.skipIf_keys (s : State) (b : Bool) :
    (s.skipIf b).keys = s.keys := by
  unfold State.skipIf; split <;> rfl

@[simp] theorem State.skipIf_mem (s : State) (b : Bool) :
    (s.skipIf b).mem = s.mem := by
  unfold State.skipIf; split <;> rfl

@[simp] theorem State.skipIf_mode (s : State) (b : Bool) :
    (s.skipIf b).mode = s.mode := by
  unfold State.skipIf; split <;> rfl

@[simp] theorem State.skipIf_waitReg (s : State) (b : Bool) :
    (s.skipIf b).waitReg = s.waitReg := by
  unfold State.skipIf; split <;> rfl

@[simp] theorem State.skipIf_fault (s : State) (b : Bool) :
    (s.skipIf b).fault = s.fault := by
  unfold State.skipIf; split <;> rfl

@[simp] theorem State.skipIf_acc (s : State) (b : Bool) :
    (s.skipIf b).acc = s.acc := by
  unfold State.skipIf; split <;> rfl

@[simp] theorem State.skipIf_inputs (s : State) (b : Bool) :
    (s.skipIf b).inputs = s.inputs := by
  unfold State.skipIf; split <;> rfl

@[simp] theorem State.skipIf_draws (s : State) (b : Bool) :
    (s.skipIf b).draws = s.draws := by
  unfold State.skipIf; split <;> rfl

@[simp] theorem State.skipIf_reg (s : State) (b : Bool) (r : Nibble) :
    (s.skipIf b).reg r = s.reg r := by
  unfold State.skipIf; split <;> rfl

@[simp] theorem State.skipIf_readByte (s : State) (b : Bool) (n : Nat) :
    (s.skipIf b).readByte n = s.readByte n := by
  unfold State.skipIf; split <;> rfl

@[simp] theorem State.skipIf_pixel (s : State) (b : Bool) (col : Fin 64) (row : Fin 32) :
    (s.skipIf b).pixel col row = s.pixel col row := by
  unfold State.skipIf; split <;> rfl

@[simp] theorem State.skipIf_key (s : State) (b : Bool) (k : Nibble) :
    (s.skipIf b).key k = s.key k := by
  unfold State.skipIf; split <;> rfl

/-! #### `incrementI` -/

@[simp] theorem State.incrementI_cfg (s : State) (x : Nibble) :
    (s.incrementI x).cfg = s.cfg := by
  unfold State.incrementI; split <;> rfl

@[simp] theorem State.incrementI_v (s : State) (x : Nibble) :
    (s.incrementI x).v = s.v := by
  unfold State.incrementI; split <;> rfl

@[simp] theorem State.incrementI_i (s : State) (x : Nibble) :
    (s.incrementI x).i = if s.cfg.loadStoreIncrementsI then BitVec.ofNat 16 (s.incrementedI x) else s.i := by
  unfold State.incrementI; split <;> rfl

@[simp] theorem State.incrementI_pc (s : State) (x : Nibble) :
    (s.incrementI x).pc = s.pc := by
  unfold State.incrementI; split <;> rfl

@[simp] theorem State.incrementI_stack (s : State) (x : Nibble) :
    (s.incrementI x).stack = s.stack := by
  unfold State.incrementI; split <;> rfl

@[simp] theorem State.incrementI_depth (s : State) (x : Nibble) :
    (s.incrementI x).depth = s.depth := by
  unfold State.incrementI; split <;> rfl

@[simp] theorem State.incrementI_dt (s : State) (x : Nibble) :
    (s.incrementI x).dt = s.dt := by
  unfold State.incrementI; split <;> rfl

@[simp] theorem State.incrementI_st (s : State) (x : Nibble) :
    (s.incrementI x).st = s.st := by
  unfold State.incrementI; split <;> rfl

@[simp] theorem State.incrementI_display (s : State) (x : Nibble) :
    (s.incrementI x).display = s.display := by
  unfold State.incrementI; split <;> rfl

@[simp] theorem State.incrementI_keys (s : State) (x : Nibble) :
    (s.incrementI x).keys = s.keys := by
  unfold State.incrementI; split <;> rfl

@[simp] theorem State.incrementI_mem (s : State) (x : Nibble) :
    (s.incrementI x).mem = s.mem := by
  unfold State.incrementI; split <;> rfl

@[simp] theorem State.incrementI_mode (s : State) (x : Nibble) :
    (s.incrementI x).mode = s.mode := by
  unfold State.incrementI; split <;> rfl

@[simp] theorem State.incrementI_waitReg (s : State) (x : Nibble) :
    (s.incrementI x).waitReg = s.waitReg := by
  unfold State.incrementI; split <;> rfl

@[simp] theorem State.incrementI_fault (s : State) (x : Nibble) :
    (s.incrementI x).fault = s.fault := by
  unfold State.incrementI; split <;> rfl

@[simp] theorem State.incrementI_acc (s : State) (x : Nibble) :
    (s.incrementI x).acc = s.acc := by
  unfold State.incrementI; split <;> rfl

@[simp] theorem State.incrementI_inputs (s : State) (x : Nibble) :
    (s.incrementI x).inputs = s.inputs := by
  unfold State.incrementI; split <;> rfl

@[simp] theorem State.incrementI_draws (s : State) (x : Nibble) :
    (s.incrementI x).draws = s.draws := by
  unfold State.incrementI; split <;> rfl

@[simp] theorem State.incrementI_reg (s : State) (x : Nibble) (r : Nibble) :
    (s.incrementI x).reg r = s.reg r := by
  unfold State.incrementI; split <;> rfl

@[simp] theorem State.incrementI_readByte (s : State) (x : Nibble) (n : Nat) :
    (s.incrementI x).readByte n = s.readByte n := by
  unfold State.incrementI; split <;> rfl

@[simp] theorem State.incrementI_pixel (s : State) (x : Nibble) (col : Fin 64) (row : Fin 32) :
    (s.incrementI x).pixel col row = s.pixel col row := by
  unfold State.incrementI; split <;> rfl

@[simp] theorem State.incrementI_key (s : State) (x : Nibble) (k : Nibble) :
    (s.incrementI x).key k = s.key k := by
  unfold State.incrementI; split <;> rfl

end Sys2Proof.Machine
end

