-- ==== Sys2Proof/Laws/Memory.lean ====
section
/-! SUPPORT. The laws of memory: a read after a write gives what was written and every other byte stays, and every
memory operation keeps the canonical form. -/

namespace Sys2Proof.Machine

theorem Memory.read_erase (cfg : Config) (m : Memory) (a k : Nat) :
    Memory.read cfg (Memory.erase m a) k = if k = a then Memory.unlisted cfg a else Memory.read cfg m k := by
  induction m with
  | nil => by_cases h : k = a <;> simp [Memory.erase, Memory.read, h]
  | cons c m ih =>
    obtain ⟨p, b⟩ := c
    by_cases hp : p = a
    · have : Memory.erase ((p, b) :: m) a = Memory.erase m a := by simp [Memory.erase, hp]
      rw [this, ih]
      by_cases hk : k = a
      · simp [hk]
      · simp [hk, Memory.read, hp]
    · have : Memory.erase ((p, b) :: m) a = (p, b) :: Memory.erase m a := by simp [Memory.erase, hp]
      rw [this]
      simp only [Memory.read, ih]
      by_cases hk : k = p
      · simp [hk, hp]
      · simp [hk]

theorem Memory.read_insert (cfg : Config) (m : Memory) (a : Nat) (b : Byte) (k : Nat) (h : ∀ c ∈ m, c.1 ≠ a) :
    Memory.read cfg (Memory.insert a b m) k = if k = a then b else Memory.read cfg m k := by
  induction m with
  | nil => simp [Memory.insert, Memory.read]
  | cons c m ih =>
    have hc : c.1 ≠ a := h c (by simp)
    have ih' := ih fun d hd => h d (by simp [hd])
    unfold Memory.insert
    split
    · simp [Memory.read]
    · simp only [Memory.read, ih']
      by_cases hk : k = c.1
      · simp [hk, hc]
      · simp [hk]

theorem Memory.mem_erase {m : Memory} {a : Nat} {c : Host.Cell} :
    c ∈ Memory.erase m a ↔ c ∈ m ∧ c.1 ≠ a := by
  simp [Memory.erase]

/-- A read after a write: the written byte at its address, every other byte as before. -/
theorem Memory.read_write (cfg : Config) (m : Memory) (a : Nat) (b : Byte) (k : Nat) :
    Memory.read cfg (Memory.write cfg m a b) k = if k = a then b else Memory.read cfg m k := by
  unfold Memory.write
  split
  · rename_i h
    rw [Memory.read_erase, ← h]
  · rw [Memory.read_insert _ _ _ _ _ fun c hc => (Memory.mem_erase.mp hc).2, Memory.read_erase]
    by_cases hk : k = a <;> simp [hk]

/-- A read after several writes at rising addresses. -/
theorem Memory.read_writeBytes (cfg : Config) (bs : List Byte) : ∀ (m : Memory) (a k : Nat),
    Memory.read cfg (Memory.writeBytes cfg m a bs) k =
      if h : a ≤ k ∧ k < a + bs.length then bs[k - a]'(by omega) else Memory.read cfg m k := by
  induction bs with
  | nil =>
    intro m a k
    rw [dif_neg (by simp)]
    rfl
  | cons b bs ih =>
    intro m a k
    rw [Memory.writeBytes, ih]
    by_cases h1 : a + 1 ≤ k ∧ k < a + 1 + bs.length
    · rw [dif_pos h1, dif_pos (by simp; omega)]
      have : k - a = (k - (a + 1)) + 1 := by omega
      simp [this]
    · rw [dif_neg h1, Memory.read_write]
      by_cases hk : k = a
      · subst hk
        simp
      · rw [if_neg hk, dif_neg (by simp; omega)]

theorem Memory.mem_insert {a : Nat} {b : Byte} {m : Memory} {c : Host.Cell} :
    c ∈ Memory.insert a b m ↔ c = (a, b) ∨ c ∈ m := by
  induction m with
  | nil => simp [Memory.insert]
  | cons d m ih =>
    unfold Memory.insert
    split
    · simp
    · simp only [List.mem_cons, ih]
      tauto

theorem Memory.insert_rising {a : Nat} {b : Byte} {m : Memory} (h : m.Pairwise fun c d => c.1 < d.1)
    (ha : ∀ c ∈ m, c.1 ≠ a) : (Memory.insert a b m).Pairwise fun c d => c.1 < d.1 := by
  induction m with
  | nil => simp [Memory.insert]
  | cons d m ih =>
    obtain ⟨hd, hm⟩ := List.pairwise_cons.mp h
    have had : d.1 ≠ a := ha d (by simp)
    unfold Memory.insert
    split
    · rename_i hlt
      refine List.pairwise_cons.mpr ⟨fun c hc => ?_, h⟩
      rcases List.mem_cons.mp hc with rfl | hc
      · exact hlt
      · exact Nat.lt_trans hlt (hd c hc)
    · refine List.pairwise_cons.mpr ⟨fun c hc => ?_, ih hm fun c hc => ha c (by simp [hc])⟩
      rcases Memory.mem_insert.mp hc with rfl | hc
      · show d.1 < a
        omega
      · exact hd c hc

/-- The empty memory is in canonical form. -/
theorem Memory.nil_wf (cfg : Config) : Memory.wf cfg [] := by
  simp [Memory.wf]

/-- A write inside the address space keeps the canonical form. -/
theorem Memory.write_wf {cfg : Config} {m : Memory} {a : Nat} {b : Byte} (h : Memory.wf cfg m) (ha : a ≤ 0xFFF) :
    Memory.wf cfg (Memory.write cfg m a b) := by
  obtain ⟨hr, hc⟩ := h
  have her : (Memory.erase m a).Pairwise fun c d => c.1 < d.1 := hr.filter _
  unfold Memory.write
  split
  · exact ⟨her, fun c h => hc c (Memory.mem_erase.mp h).1⟩
  · rename_i hb
    refine ⟨Memory.insert_rising her fun c h => (Memory.mem_erase.mp h).2, fun c h => ?_⟩
    rcases Memory.mem_insert.mp h with rfl | h
    · exact ⟨ha, hb⟩
    · exact hc c (Memory.mem_erase.mp h).1

/-- Writes inside the address space keep the canonical form. -/
theorem Memory.writeBytes_wf {cfg : Config} {bs : List Byte} : ∀ {m : Memory} {a : Nat},
    Memory.wf cfg m → a + bs.length ≤ 0x1000 → Memory.wf cfg (Memory.writeBytes cfg m a bs) := by
  induction bs with
  | nil => intro m a h _; exact h
  | cons b bs ih =>
    intro m a h ha
    simp only [List.length_cons] at ha
    exact ih (Memory.write_wf h (by omega)) (by omega)

/-- The fill of construction keeps the canonical form. -/
theorem Memory.fill_wf {cfg : Config} {cells : List Host.Cell} : ∀ {m : Memory},
    Memory.wf cfg m → Memory.wf cfg (Memory.fill cfg m cells) := by
  induction cells with
  | nil => intro m h; exact h
  | cons c cs ih =>
    intro m h
    refine ih ?_
    split
    · exact Memory.write_wf h ‹_›
    · exact h

/-- `M` after stores: the stored bytes at their addresses, every other byte as before. -/
theorem State.readByte_writeBytes (s : State) (a : Nat) (bs : List Byte) (k : Nat) :
    (s.writeBytes a bs).readByte k =
      if h : a ≤ k ∧ k < a + bs.length then bs[k - a]'(by omega) else s.readByte k :=
  Memory.read_writeBytes s.cfg bs s.mem a k

/-- Reading `n` bytes gives `n` bytes. -/
@[simp] theorem State.length_readBytes (s : State) (n : Nat) : ∀ a, (s.readBytes a n).length = n := by
  induction n with
  | zero => intro a; rfl
  | succ n ih => intro a; simp [State.readBytes, ih]

/-- The `k`-th of the bytes read from `a` is the byte at `a + k`. -/
theorem State.getElem_readBytes (s : State) (n : Nat) : ∀ (a k : Nat) (h : k < (s.readBytes a n).length),
    (s.readBytes a n)[k] = s.readByte (a + k) := by
  induction n with
  | zero => intro a k h; simp at h
  | succ n ih =>
    intro a k h
    cases k with
    | zero => simp [State.readBytes]
    | succ k =>
      simp only [State.readBytes, List.getElem_cons_succ]
      rw [ih]
      congr 1
      omega

end Sys2Proof.Machine
end

