-- ==== Sys2Proof/Laws/Ops.lean ====
section
/-! SUPPORT. For each shared operation, once, everything it can do; proofs cite these instead of unfolding. -/

namespace Sys2Proof.Machine

/-! ### Registers -/

/-- Reading a register after a register write. -/
theorem State.reg_setReg (s : State) (x : Nibble) (b : Byte) (r : Nibble) :
    (s.setReg x b).reg r = if r = x then b else s.reg r := by
  simp only [State.reg, State.setReg, Vector.getElem_set, BitVec.toNat_inj, eq_comm]

/-- Reading a register after a flag write. -/
theorem State.reg_setFlag (s : State) (f : Bool) (r : Nibble) :
    (s.setFlag f).reg r = if r = 0xF then flagByte f else s.reg r :=
  State.reg_setReg s 0xF (flagByte f) r

/-- Reading a register after a result and its flag: `VF` holds the flag even where it is the destination (R31). -/
theorem State.reg_setResult (s : State) (x : Nibble) (b : Byte) (f : Bool) (r : Nibble) :
    (s.setResult x b f).reg r = if r = 0xF then flagByte f else if r = x then b else s.reg r := by
  rw [State.setResult, State.reg_setFlag, State.reg_setReg]

/-- Reading a register after a register load. -/
theorem State.reg_loadRegs (s : State) (a : Nat) (x r : Nibble) :
    (s.loadRegs a x).reg r = if r.toNat ≤ x.toNat then s.readByte (a + r.toNat) else s.reg r := by
  simp [State.reg, State.loadRegs]

@[simp] theorem State.length_regsUpTo (s : State) (x : Nibble) : (s.regsUpTo x).length = x.toNat + 1 := by
  have := x.isLt
  simp [State.regsUpTo]
  omega

/-- The `k`-th of `V0..Vx`. -/
theorem State.getElem_regsUpTo (s : State) (x : Nibble) (k : Nat) (h : k < (s.regsUpTo x).length) :
    (s.regsUpTo x)[k] = s.reg (BitVec.ofNat 4 k) := by
  have hx := x.isLt
  have hk : k < 16 := by rw [State.length_regsUpTo] at h; omega
  simp [State.regsUpTo, State.reg, Nat.mod_eq_of_lt hk]

@[simp] theorem flagByte_true : flagByte true = 1 := rfl
@[simp] theorem flagByte_false : flagByte false = 0 := rfl

/-! ### The clock -/

/-- A timer after `k` ticks, as a number: it floors at 0 (R109). -/
@[simp] theorem toNat_tickTimer (b : Byte) (k : Nat) : (tickTimer b k).toNat = b.toNat - k := by
  have := b.isLt
  simp only [tickTimer, BitVec.toNat_ofNat]
  omega

/-- The accumulator and both timers after the clock phase (R107, R108). -/
theorem State.tick_clock (s : State) :
    s.tick.acc = (s.acc + 60) % s.cfg.clockHz ∧
    s.tick.dt.toNat = s.dt.toNat - (s.acc + 60) / s.cfg.clockHz ∧
    s.tick.st.toNat = s.st.toNat - (s.acc + 60) / s.cfg.clockHz :=
  ⟨rfl, toNat_tickTimer s.dt s.boundaries, toNat_tickTimer s.st s.boundaries⟩

/-- Reading a register after a key is delivered (R111). -/
theorem State.reg_deliver (s : State) (code : Nibble) (r : Nibble) :
    (s.deliver code).reg r = if r = s.waitReg then code.setWidth 8 else s.reg r :=
  State.reg_setReg s s.waitReg (code.setWidth 8) r

/-! ### Checks -/

theorem checkRead_eq_none {a : Nat} : checkRead a = none ↔ a ≤ 0xFFF := by
  unfold checkRead
  split <;> simp <;> omega

theorem checkWrite_eq_none {cfg : Config} {a : Nat} :
    checkWrite cfg a = none ↔ a ≤ 0xFFF ∧ (0x1FF < a ∨ cfg.fontWritePolicy = .allow) := by
  unfold checkWrite
  have hp : cfg.fontWritePolicy = .allow ↔ ¬ cfg.fontWritePolicy = .fault := by
    cases cfg.fontWritePolicy <;> simp
  split
  · simp; omega
  · split
    · rename_i h
      simp [h.2]; omega
    · rename_i h1 h
      simp only [true_iff, hp]
      constructor
      · omega
      · by_cases hf : cfg.fontWritePolicy = .fault
        · left
          by_contra hc
          exact h ⟨by omega, hf⟩
        · exact Or.inr hf

/-- A span of addresses passes exactly when each of them does. -/
theorem checkSpan_eq_none {check : Nat → Option Raise} {n : Nat} : ∀ {a : Nat},
    checkSpan check a n = none ↔ ∀ k < n, check (a + k) = none := by
  induction n with
  | zero => intro a; simp [checkSpan]
  | succ n ih =>
    intro a
    unfold checkSpan
    constructor
    · intro h k hk
      split at h
      · simp at h
      · cases k with
        | zero => assumption
        | succ k =>
          have := ih.mp h k (by omega)
          rwa [show a + 1 + k = a + (k + 1) by omega] at this
    · intro h
      have h0 := h 0 (by omega)
      simp only [Nat.add_zero] at h0
      rw [h0]
      exact ih.mpr fun k hk => by
        have := h (k + 1) (by omega)
        rwa [show a + (k + 1) = a + 1 + k by omega] at this

/-- The raise of a span is that of its lowest failing address (R68). -/
theorem checkSpan_eq_some {check : Nat → Option Raise} {r : Raise} {n k : Nat} : ∀ {a : Nat}, k < n →
    (∀ j < k, check (a + j) = none) → check (a + k) = some r → checkSpan check a n = some r := by
  induction n generalizing k with
  | zero => intro a h; omega
  | succ n ih =>
    intro a hk hlow hr
    unfold checkSpan
    cases k with
    | zero => simp only [Nat.add_zero] at hr; rw [hr]
    | succ k =>
      have h0 := hlow 0 (by omega)
      simp only [Nat.add_zero] at h0
      rw [h0]
      refine ih (k := k) (by omega) (fun j hj => ?_) ?_
      · have := hlow (j + 1) (by omega)
        rwa [show a + (j + 1) = a + 1 + j by omega] at this
      · rwa [show a + (k + 1) = a + 1 + k by omega] at hr

theorem afterCheck_none (t : State) : afterCheck none t = .ok t := rfl

theorem afterCheck_some (r : Raise) (t : State) : afterCheck (some r) t = .error r := rfl

/-- The write phase is reached only when no check raises. -/
theorem afterCheck_eq_ok {c : Option Raise} {t u : State} : afterCheck c t = .ok u ↔ c = none ∧ u = t := by
  cases c <;> simp [afterCheck, eq_comm]

/-! ### The call stack -/

/-- A push that succeeds (R28). -/
theorem State.push_eq_ok {s t : State} {p : Word} : s.push p = .ok t ↔
    ∃ h : s.depth.val < 16,
      t = { s with stack := s.stack.set s.depth.val p h, depth := ⟨s.depth.val + 1, by omega⟩ } := by
  unfold State.push
  split
  · rename_i h
    simp [h, eq_comm]
  · rename_i h
    simp [h]

/-- A push onto a full stack (R28). -/
theorem State.push_full {s : State} (p : Word) (h : s.depth.val = 16) : s.push p = .error ⟨.stackOverflow, p.toNat⟩ := by
  unfold State.push
  rw [dif_neg (by omega)]

/-- A pop that succeeds (R29). -/
theorem State.pop_eq_ok {s t : State} {p : Word} : s.pop = .ok (p, t) ↔
    ∃ h : 0 < s.depth.val,
      p = s.stack[s.depth.val - 1]'(by omega) ∧ t = { s with depth := ⟨s.depth.val - 1, by omega⟩ } := by
  unfold State.pop
  split
  · rename_i h
    simp [h, eq_comm]
  · rename_i h
    simp [h]

/-- A pop of an empty stack (R29). -/
theorem State.pop_empty {s : State} (h : s.depth.val = 0) : s.pop = .error ⟨.stackUnderflow, 0⟩ := by
  unfold State.pop
  rw [dif_neg (by omega)]

/-! ### The phases of a step -/

/-- A step whose execute phase completes with a valid `pc`. -/
theorem perform_ok {s t : State} {body : State → Except Raise State} (h : body s.enter = .ok t) (hp : PcValid t.pc) :
    perform s body = .next t.tick := by
  simp [perform, h, hp]

/-- A step whose execute phase leaves an invalid `pc` (R106). -/
theorem perform_pcInvalid {s t : State} {body : State → Except Raise State} (h : body s.enter = .ok t)
    (hp : ¬ PcValid t.pc) : perform s body = .next (s.halt ⟨.pcInvalid, t.pc.toNat⟩) := by
  simp only [perform, h, if_neg hp]

/-- A step whose execute phase raises (R114). -/
theorem perform_error {s : State} {r : Raise} {body : State → Except Raise State} (h : body s.enter = .error r) :
    perform s body = .next (s.halt r) := by
  simp [perform, h]

/-- All that `perform` can do: fault entry on the state before the step, or the completed execute phase, ticked. -/
theorem perform_next {s u : State} {body : State → Except Raise State} (h : perform s body = .next u) :
    (∃ r, u = s.halt r) ∨ ∃ t, body s.enter = .ok t ∧ PcValid t.pc ∧ u = t.tick := by
  unfold perform at h
  split at h
  · rename_i r _
    exact .inl ⟨r, (Host.Outcome.next.inj h).symm⟩
  · rename_i t ht
    split at h
    · exact .inr ⟨t, ht, ‹_›, (Host.Outcome.next.inj h).symm⟩
    · exact .inl ⟨_, (Host.Outcome.next.inj h).symm⟩

/-- `perform` always answers a next state. -/
theorem perform_answers (s : State) (body : State → Except Raise State) : ∃ u, perform s body = .next u := by
  unfold perform
  split
  · exact ⟨_, rfl⟩
  · split <;> exact ⟨_, rfl⟩

theorem step_halted {s : State} (h : s.mode = .haltedFatal) : step s = .next s := by
  simp [step, h, haltedStep]

theorem step_waiting {s : State} (h : s.mode = .waitingForKey) : step s = waitingStep s := by
  simp [step, h]

theorem step_running {s : State} (h : s.mode = .running) : step s = runningStep exec s := by
  simp [step, h]

/-- A running step that decodes is `exec` of the decoded instruction. -/
theorem runningStep_decoded {s : State} {i : Instr} (run : Instr → State → Host.Outcome State Fault Refusal)
    (hp : PcValid s.pc) (hd : decodeWord s.fetchWord = .ok i) : runningStep run s = run i s := by
  simp [runningStep, hp, hd]

/-- A running step on a word of no instruction is the fault DecodeFault. -/
theorem runningStep_undecoded {s : State} {e : DecodeReject} (run : Instr → State → Host.Outcome State Fault Refusal)
    (hp : PcValid s.pc) (hd : decodeWord s.fetchWord = .error e) :
    runningStep run s = .next (s.halt ⟨.decodeFault, s.fetchWord.toNat⟩) := by
  simp [runningStep, hp, hd]

/-- All that a waiting step can do. -/
theorem waitingStep_cases (s : State) :
    (s.nextInput.event = none ∧ waitingStep s = .next s.sample.tick) ∨
    ∃ code, s.nextInput.event = some code ∧ waitingStep s = .next (s.sample.deliver code).tick := by
  unfold waitingStep
  cases h : s.nextInput.event with
  | none => exact .inl ⟨rfl, rfl⟩
  | some code => exact .inr ⟨code, rfl, rfl⟩

/-- All that a step which answers a next state can do. -/
theorem step_next {s u : State} (h : step s = .next u) :
    (s.mode = .haltedFatal ∧ u = s) ∨
    (s.mode = .waitingForKey ∧ s.nextInput.event = none ∧ u = s.sample.tick) ∨
    (s.mode = .waitingForKey ∧ ∃ code, s.nextInput.event = some code ∧ u = (s.sample.deliver code).tick) ∨
    (s.mode = .running ∧ PcValid s.pc ∧
      ((∃ e, decodeWord s.fetchWord = .error e ∧ u = s.halt ⟨.decodeFault, s.fetchWord.toNat⟩) ∨
        ∃ i, decodeWord s.fetchWord = .ok i ∧ exec i s = .next u)) := by
  cases hm : s.mode with
  | haltedFatal =>
    rw [step_halted hm] at h
    exact .inl ⟨rfl, (Host.Outcome.next.inj h).symm⟩
  | waitingForKey =>
    rw [step_waiting hm] at h
    rcases waitingStep_cases s with ⟨he, hw⟩ | ⟨code, he, hw⟩
    · rw [hw] at h
      exact .inr (.inl ⟨rfl, he, (Host.Outcome.next.inj h).symm⟩)
    · rw [hw] at h
      exact .inr (.inr (.inl ⟨rfl, code, he, (Host.Outcome.next.inj h).symm⟩))
  | running =>
    rw [step_running hm] at h
    by_cases hp : PcValid s.pc
    · refine .inr (.inr (.inr ⟨rfl, hp, ?_⟩))
      cases hd : decodeWord s.fetchWord with
      | error e =>
        rw [runningStep_undecoded exec hp hd] at h
        exact .inl ⟨e, rfl, (Host.Outcome.next.inj h).symm⟩
      | ok i =>
        rw [runningStep_decoded exec hp hd] at h
        exact .inr ⟨i, rfl, h⟩
    · simp [runningStep, hp] at h

end Sys2Proof.Machine
end

