-- ==== Sys2Proof/Laws/Display.lean ====
section
/-! SUPPORT. What drawing does, row by row and pixel by pixel. A sprite has at most 15 rows, so no two of them land on the
same display row. -/

namespace Sys2Proof.Machine

/-- The columns a sprite byte draws (R192, R193). -/
theorem getLsbD_spriteMask (x0 : Nat) (b : Byte) (c : Nat) (hc : c < 64) :
    (spriteMask x0 b).getLsbD c = (decide (x0 ≤ c ∧ c ≤ x0 + 7) && b.getLsbD (7 - (c - x0))) := by
  simp only [spriteMask, BitVec.getLsbD_shiftLeft, BitVec.getLsbD_setWidth, BitVec.getLsbD_reverse,
    BitVec.getMsbD_eq_getLsbD, hc, decide_true, Bool.true_and]
  by_cases h1 : c < x0
  · have : ¬ x0 ≤ c := by omega
    simp [h1, this]
  · by_cases h2 : c ≤ x0 + 7
    · have h3 : c - x0 < 8 := by omega
      have h4 : c - x0 < 64 := by omega
      have h5 : x0 ≤ c := by omega
      simp [h1, h2, h3, h4, h5]
    · have h3 : ¬ c - x0 < 8 := by omega
      simp [h2, h3]

/-- A display row on which no sprite row lands stays. -/
theorem drawRows_other (x0 : Nat) (bs : List Byte) : ∀ (d : Vector (BitVec 64) 32) (y r : Nat) (hr : r < 32),
    (∀ k < bs.length, (y + k) % 32 ≠ r) → (drawRows d x0 y bs).1[r] = d[r] := by
  induction bs with
  | nil => intro d y r hr _; rfl
  | cons b bs ih =>
    intro d y r hr h
    have h0 := h 0 (by simp)
    simp only [Nat.add_zero] at h0
    simp only [drawRows]
    rw [ih _ _ _ hr fun k hk => by
      have := h (k + 1) (by simpa using hk)
      rwa [show y + (k + 1) = y + 1 + k by omega] at this]
    rw [Vector.getElem_set]
    simp [h0]

/-- The display row of sprite row `k` is XORed with that row's columns, once. -/
theorem drawRows_row (x0 : Nat) (bs : List Byte) : ∀ (d : Vector (BitVec 64) 32) (y k : Nat) (hk : k < bs.length),
    bs.length ≤ 32 → (drawRows d x0 y bs).1[(y + k) % 32]'(Nat.mod_lt _ (by decide)) =
      d[(y + k) % 32]'(Nat.mod_lt _ (by decide)) ^^^ spriteMask x0 bs[k] := by
  induction bs with
  | nil => intro d y k hk; simp at hk
  | cons b bs ih =>
    intro d y k hk hlen
    simp only [List.length_cons] at hk hlen
    simp only [drawRows]
    cases k with
    | zero =>
      rw [drawRows_other]
      · simp
      · intro j hj; simp only [Nat.add_zero]; omega
    | succ k =>
      have hk' : k < bs.length := by omega
      have e : (y + (k + 1)) % 32 = (y + 1 + k) % 32 := by congr 1; omega
      simp only [e, List.getElem_cons_succ]
      rw [ih _ _ _ hk' (by omega), Vector.getElem_set]
      have : ¬ y % 32 = (y + 1 + k) % 32 := by omega
      simp [this]

/-- The collision flag: some sprite row meets a set pixel of the display as it was (R194). -/
theorem drawRows_hit (x0 : Nat) (bs : List Byte) : ∀ (d : Vector (BitVec 64) 32) (y : Nat), bs.length ≤ 32 →
    ((drawRows d x0 y bs).2 = true ↔ ∃ k, ∃ hk : k < bs.length,
      rowCollides (d[(y + k) % 32]'(Nat.mod_lt _ (by decide))) (spriteMask x0 bs[k]) = true) := by
  induction bs with
  | nil => intro d y _; simp [drawRows]
  | cons b bs ih =>
    intro d y hlen
    simp only [List.length_cons] at hlen
    simp only [drawRows, Bool.or_eq_true]
    rw [ih _ _ (by omega)]
    constructor
    · rintro (h | ⟨k, hk, h⟩)
      · exact ⟨0, by simp, by simpa using h⟩
      · refine ⟨k + 1, by simpa using hk, ?_⟩
        have e : (y + (k + 1)) % 32 = (y + 1 + k) % 32 := by congr 1; omega
        rw [Vector.getElem_set, if_neg (by omega)] at h
        simpa only [e, List.getElem_cons_succ] using h
    · rintro ⟨k, hk, h⟩
      cases k with
      | zero => exact .inl (by simpa using h)
      | succ k =>
        refine .inr ⟨k, by simpa using hk, ?_⟩
        have e : (y + (k + 1)) % 32 = (y + 1 + k) % 32 := by congr 1; omega
        simp only [List.length_cons] at hk
        rw [Vector.getElem_set, if_neg (by omega)]
        simpa only [e, List.getElem_cons_succ] using h

/-- Two rows collide exactly where both have a set pixel. -/
theorem rowCollides_iff {row mask : BitVec 64} :
    rowCollides row mask = true ↔ ∃ c < 64, row.getLsbD c = true ∧ mask.getLsbD c = true := by
  unfold rowCollides
  rw [bne_iff_ne]
  constructor
  · intro h
    by_contra hc
    push Not at hc
    refine h (BitVec.eq_of_getLsbD_eq fun c hlt => ?_)
    have := hc c hlt
    have hz : BitVec.getLsbD (0 : BitVec 64) c = false := BitVec.getLsbD_zero
    rw [BitVec.getLsbD_and, hz]
    cases hr : row.getLsbD c
    · rfl
    · simp [this hr]
  · rintro ⟨c, _, hr, hm⟩ h
    have : (row &&& mask).getLsbD c = false := by rw [h]; simp
    simp [hr, hm] at this

end Sys2Proof.Machine
end

