-- ==== Sys2Proof/Laws/Exec.lean ====
section
/-! SUPPORT. What an instruction can do, once for all of them: if `exec` answers a next state, it is fault entry on the state
before the step, or the completed execute phase, ticked. The rules about every instruction are proved from this. -/

namespace Sys2Proof.Machine

/-- The state `w` at the end of a completed execute phase, from the state `e` entered with the random byte `rand`, with the
guards its check phase passed. -/
def Completed (rand : Byte) (e w : State) : Instr → Prop
  | .cls => w = e.setDisplay (Vector.replicate 32 0)
  | .ret => ∃ p t, e.pop = .ok (p, t) ∧ w = t.setPc p
  | .jp nnn => w = e.setPc (zextAddr nnn)
  | .call nnn => ∃ t, e.push e.pc = .ok t ∧ w = t.setPc (zextAddr nnn)
  | .seImm x kk => w = e.skipIf (e.reg x == kk)
  | .sneImm x kk => w = e.skipIf (e.reg x != kk)
  | .seReg x y => w = e.skipIf (e.reg x == e.reg y)
  | .sneReg x y => w = e.skipIf (e.reg x != e.reg y)
  | .ldImm x kk => w = e.setReg x kk
  | .addImm x kk => w = e.setReg x (e.reg x + kk)
  | .ldReg x y => w = e.setReg x (e.reg y)
  | .orReg x y => w = e.setReg x (e.reg x ||| e.reg y)
  | .andReg x y => w = e.setReg x (e.reg x &&& e.reg y)
  | .xorReg x y => w = e.setReg x (e.reg x ^^^ e.reg y)
  | .addReg x y => w = e.setResult x (e.reg x + e.reg y) (carry (e.reg x) (e.reg y))
  | .subReg x y => w = e.setResult x (e.reg x - e.reg y) (notBorrow (e.reg x) (e.reg y))
  | .shrReg x y => w = e.setResult x (e.shiftSource x y >>> 1) (shiftOutRight (e.shiftSource x y))
  | .subnReg x y => w = e.setResult x (e.reg y - e.reg x) (notBorrow (e.reg y) (e.reg x))
  | .shlReg x y => w = e.setResult x (e.shiftSource x y <<< 1) (shiftOutLeft (e.shiftSource x y))
  | .rnd x kk => w = e.setReg x (rand &&& kk)
  | .ldI nnn => w = e.setI (zextAddr nnn)
  | .jpV0 nnn => w = e.setPc (offsetTarget nnn (e.reg 0x0))
  | .drw x y n => checkSpan checkRead e.i.toNat n.toNat = none ∧ w = e.draw x y (e.readBytes e.i.toNat n.toNat)
  | .skp x => ∃ k, keyIndex e.cfg (e.reg x) = .ok k ∧ w = e.skipIf (e.key k)
  | .sknp x => ∃ k, keyIndex e.cfg (e.reg x) = .ok k ∧ w = e.skipIf (!e.key k)
  | .ldVxDt x => w = e.setReg x e.dt
  | .ldVxK x => w = e.await x
  | .ldDtVx x => w = e.setDt (e.reg x)
  | .ldStVx x => w = e.setSt (e.reg x)
  | .addI x => e.addressSum x ≤ 0xFFF ∧
      w = if e.cfg.addISetsVf then (e.setI (BitVec.ofNat 16 (e.addressSum x))).setFlag (addressOverflow (e.addressSum x))
        else e.setI (BitVec.ofNat 16 (e.addressSum x))
  | .ldF x => w = e.setI (fontAddress e.cfg (e.reg x))
  | .ldB x => checkSpan (checkWrite e.cfg) e.i.toNat 3 = none ∧
      w = e.writeBytes e.i.toNat (bcdDigits (e.reg x))
  | .dump x => checkSpan (checkWrite e.cfg) e.i.toNat (x.toNat + 1) = none ∧ e.checkIncrement x = none ∧
      w = (e.writeBytes e.i.toNat (e.regsUpTo x)).incrementI x
  | .load x => checkSpan checkRead e.i.toNat (x.toNat + 1) = none ∧ e.checkIncrement x = none ∧
      w = (e.loadRegs e.i.toNat x).incrementI x

theorem or_eq_none {a b : Option Raise} : a.or b = none ↔ a = none ∧ b = none := by
  cases a <;> simp

/-- THE INVERSION OF `exec`: all that an instruction which answers a next state can do. -/
theorem exec_next {i : Instr} {s u : State} (h : exec i s = .next u) :
    (∃ r, u = s.halt r) ∨
    ∃ w, Completed s.nextInput.rand s.enter w i ∧ PcValid w.pc ∧ u = w.tick := by
  cases i
  all_goals simp only [exec] at h
  case ret =>
    unfold execRet at h
    refine (perform_next h).imp_right ?_
    rintro ⟨t, ht, hp, hu⟩
    cases hpop : s.enter.pop with
    | error r => simp [hpop] at ht
    | ok q =>
      simp only [hpop, Except.ok.injEq] at ht
      exact ⟨t, ⟨q.1, q.2, hpop, ht.symm⟩, hp, hu⟩
  case call nnn =>
    unfold execCall at h
    refine (perform_next h).imp_right ?_
    rintro ⟨t, ht, hp, hu⟩
    cases hpush : s.enter.push s.enter.pc with
    | error r => simp only [hpush] at ht; cases ht
    | ok q =>
      simp only [hpush, Except.ok.injEq] at ht
      exact ⟨t, ⟨q, hpush, ht.symm⟩, hp, hu⟩
  case skp x =>
    unfold execSkp at h
    refine (perform_next h).imp_right ?_
    rintro ⟨t, ht, hp, hu⟩
    cases hk : keyIndex s.enter.cfg (s.enter.reg x) with
    | error r => simp only [hk] at ht; cases ht
    | ok k =>
      simp only [hk, Except.ok.injEq] at ht
      exact ⟨t, ⟨k, hk, ht.symm⟩, hp, hu⟩
  case sknp x =>
    unfold execSknp at h
    refine (perform_next h).imp_right ?_
    rintro ⟨t, ht, hp, hu⟩
    cases hk : keyIndex s.enter.cfg (s.enter.reg x) with
    | error r => simp only [hk] at ht; cases ht
    | ok k =>
      simp only [hk, Except.ok.injEq] at ht
      exact ⟨t, ⟨k, hk, ht.symm⟩, hp, hu⟩
  case addI x =>
    unfold execAddI at h
    refine (perform_next h).imp_right ?_
    rintro ⟨t, ht, hp, hu⟩
    refine ⟨t, ?_, hp, hu⟩
    by_cases hs : 0xFFF < s.enter.addressSum x
    · simp only [if_pos hs] at ht; cases ht
    · simp only [if_neg hs] at ht
      refine ⟨by omega, ?_⟩
      split
      · rename_i hq; simp only [if_pos hq] at ht; exact (Except.ok.inj ht).symm
      · rename_i hq; simp only [if_neg hq] at ht; exact (Except.ok.inj ht).symm
  case drw x y n =>
    unfold execDrw at h
    refine (perform_next h).imp_right ?_
    rintro ⟨t, ht, hp, hu⟩
    exact ⟨t, afterCheck_eq_ok.mp ht, hp, hu⟩
  case ldB x =>
    unfold execLdB at h
    refine (perform_next h).imp_right ?_
    rintro ⟨t, ht, hp, hu⟩
    exact ⟨t, afterCheck_eq_ok.mp ht, hp, hu⟩
  case dump x =>
    unfold execDump at h
    refine (perform_next h).imp_right ?_
    rintro ⟨t, ht, hp, hu⟩
    obtain ⟨hc, ht⟩ := afterCheck_eq_ok.mp ht
    exact ⟨t, ⟨(or_eq_none.mp hc).1, (or_eq_none.mp hc).2, ht⟩, hp, hu⟩
  case load x =>
    unfold execLoad at h
    refine (perform_next h).imp_right ?_
    rintro ⟨t, ht, hp, hu⟩
    obtain ⟨hc, ht⟩ := afterCheck_eq_ok.mp ht
    exact ⟨t, ⟨(or_eq_none.mp hc).1, (or_eq_none.mp hc).2, ht⟩, hp, hu⟩
  all_goals
    simp only [execCls, execJp, execSeImm, execSneImm, execSeReg, execSneReg, execLdImm, execAddImm, execLdReg,
      execOrReg, execAndReg, execXorReg, execAddReg, execSubReg, execShrReg, execSubnReg, execShlReg, execRnd,
      execLdI, execJpV0, execLdVxDt, execLdVxK, execLdDtVx, execLdStVx, execLdF] at h
    refine (perform_next h).imp_right ?_
    rintro ⟨t, ht, hp, hu⟩
    exact ⟨t, (Except.ok.inj ht).symm, hp, hu⟩

/-- The end of a step whose execute phase left the state `w`: the clock, or PcInvalid (R106). -/
def finish (s w : State) : Host.Outcome State Fault Refusal :=
  if PcValid w.pc then .next w.tick else .next (s.halt ⟨.pcInvalid, w.pc.toNat⟩)

theorem finish_valid {s w : State} (h : PcValid w.pc) : finish s w = .next w.tick := if_pos h

theorem finish_invalid {s w : State} (h : ¬ PcValid w.pc) : finish s w = .next (s.halt ⟨.pcInvalid, w.pc.toNat⟩) :=
  if_neg h

theorem perform_finish {s w : State} {body : State → Except Raise State} (h : body s.enter = .ok w) :
    perform s body = finish s w := by
  simp only [perform, h, finish]

/-- THE COMPLETION OF `exec`: where the guards of the check phase hold, it answers the finished execute phase. -/
theorem exec_completed {i : Instr} {s w : State} (h : Completed s.nextInput.rand s.enter w i) : exec i s = finish s w := by
  cases i <;> simp only [Completed] at h <;> rw [exec]
  case ret =>
    obtain ⟨p, t, hpop, rfl⟩ := h
    exact perform_finish (by simp only [hpop])
  case call nnn =>
    obtain ⟨t, hpush, rfl⟩ := h
    exact perform_finish (by simp only [hpush])
  case skp x =>
    obtain ⟨k, hk, rfl⟩ := h
    exact perform_finish (by simp only [hk])
  case sknp x =>
    obtain ⟨k, hk, rfl⟩ := h
    exact perform_finish (by simp only [hk])
  case addI x =>
    obtain ⟨hs, rfl⟩ := h
    refine perform_finish ?_
    simp only [if_neg (Nat.not_lt.mpr hs)]
    split <;> rfl
  case drw x y n => exact perform_finish (afterCheck_eq_ok.mpr h)
  case ldB x => exact perform_finish (afterCheck_eq_ok.mpr h)
  case dump x => exact perform_finish (afterCheck_eq_ok.mpr ⟨or_eq_none.mpr ⟨h.1, h.2.1⟩, h.2.2⟩)
  case load x => exact perform_finish (afterCheck_eq_ok.mpr ⟨or_eq_none.mpr ⟨h.1, h.2.1⟩, h.2.2⟩)
  all_goals
    subst h
    exact perform_finish rfl

/-- The inputs after a step that takes them (log 3). -/
theorem State.inputsTaken_of {s t : State} (hi : t.inputs = s.takeInput.inputs) (hd : t.draws = s.takeInput.draws) :
    s.InputsTaken t := by
  rw [State.InputsTaken, hi, hd]
  constructor
  · intro inp rest h
    simp [State.takeInput, h]
  · intro h
    simp [State.takeInput, h]

/-- The inputs of the coming step are the first listed ones (log 3). -/
theorem State.nextInput_cons {s : State} {inp : StepInput} {rest : List StepInput} (h : s.inputs = inp :: rest) :
    s.nextInput = inp := by
  simp [State.nextInput, h]

/-- Where none is listed they are the free value (log 3). -/
theorem State.nextInput_nil {s : State} (h : s.inputs = []) : s.nextInput = Config.freeInput s.draws := by
  simp [State.nextInput, h]

/-- The clock of a completed step, from the state `s` before it (R107, R108). -/
theorem State.clocked_tick {s w : State} {dt st : Byte} (hc : w.cfg = s.cfg) (ha : w.acc = s.acc) (hd : w.dt = dt)
    (hs : w.st = st) : s.Clocked dt st w.tick := by
  have h := w.tick_clock
  rw [ha, hc, hd, hs] at h
  exact h

end Sys2Proof.Machine
end

