-- ==== Sys2Proof/Laws/PerInstr.lean ====
section
/-! SUPPORT. For every instruction, the fields that stand in its word (R81, R84): its family in nibble 0, its operands in
their places and its sub-opcode in the rest. -/

namespace Sys2Proof.Laws.Fields

/-- A word of the format `op nnn`. -/
def IsNnn (w : Word) (op : Nibble) (nnn : Addr) : Prop := opField w = op ∧ nnnField w = nnn

/-- A word of the format `op x kk`. -/
def IsXkk (w : Word) (op x : Nibble) (kk : Byte) : Prop := opField w = op ∧ xField w = x ∧ kkField w = kk

/-- A word of the format `op x y n`. -/
def IsXyn (w : Word) (op x y n : Nibble) : Prop := opField w = op ∧ xField w = x ∧ yField w = y ∧ nField w = n

theorem isNnn_pack (op : Nibble) (nnn : Addr) : IsNnn (packNnn op nnn) op nnn := by simp [IsNnn]

theorem isXkk_pack (op x : Nibble) (kk : Byte) : IsXkk (packXkk op x kk) op x kk := by simp [IsXkk]

theorem isXyn_pack (op x y n : Nibble) : IsXyn (packXyn op x y n) op x y n := by simp [IsXyn]

/-- The fields of an instruction's word, as the opcode map of R84 gives them. -/
def Statement : Instr → Prop
  | .cls => encode .cls = 0x00E0
  | .ret => encode .ret = 0x00EE
  | .jp nnn => IsNnn (encode (.jp nnn)) 0x1 nnn
  | .call nnn => IsNnn (encode (.call nnn)) 0x2 nnn
  | .seImm x kk => IsXkk (encode (.seImm x kk)) 0x3 x kk
  | .sneImm x kk => IsXkk (encode (.sneImm x kk)) 0x4 x kk
  | .seReg x y => IsXyn (encode (.seReg x y)) 0x5 x y 0x0
  | .ldImm x kk => IsXkk (encode (.ldImm x kk)) 0x6 x kk
  | .addImm x kk => IsXkk (encode (.addImm x kk)) 0x7 x kk
  | .ldReg x y => IsXyn (encode (.ldReg x y)) 0x8 x y 0x0
  | .orReg x y => IsXyn (encode (.orReg x y)) 0x8 x y 0x1
  | .andReg x y => IsXyn (encode (.andReg x y)) 0x8 x y 0x2
  | .xorReg x y => IsXyn (encode (.xorReg x y)) 0x8 x y 0x3
  | .addReg x y => IsXyn (encode (.addReg x y)) 0x8 x y 0x4
  | .subReg x y => IsXyn (encode (.subReg x y)) 0x8 x y 0x5
  | .shrReg x y => IsXyn (encode (.shrReg x y)) 0x8 x y 0x6
  | .subnReg x y => IsXyn (encode (.subnReg x y)) 0x8 x y 0x7
  | .shlReg x y => IsXyn (encode (.shlReg x y)) 0x8 x y 0xE
  | .sneReg x y => IsXyn (encode (.sneReg x y)) 0x9 x y 0x0
  | .ldI nnn => IsNnn (encode (.ldI nnn)) 0xA nnn
  | .jpV0 nnn => IsNnn (encode (.jpV0 nnn)) 0xB nnn
  | .rnd x kk => IsXkk (encode (.rnd x kk)) 0xC x kk
  | .drw x y n => IsXyn (encode (.drw x y n)) 0xD x y n
  | .skp x => IsXkk (encode (.skp x)) 0xE x 0x9E
  | .sknp x => IsXkk (encode (.sknp x)) 0xE x 0xA1
  | .ldVxDt x => IsXkk (encode (.ldVxDt x)) 0xF x 0x07
  | .ldVxK x => IsXkk (encode (.ldVxK x)) 0xF x 0x0A
  | .ldDtVx x => IsXkk (encode (.ldDtVx x)) 0xF x 0x15
  | .ldStVx x => IsXkk (encode (.ldStVx x)) 0xF x 0x18
  | .addI x => IsXkk (encode (.addI x)) 0xF x 0x1E
  | .ldF x => IsXkk (encode (.ldF x)) 0xF x 0x29
  | .ldB x => IsXkk (encode (.ldB x)) 0xF x 0x33
  | .dump x => IsXkk (encode (.dump x)) 0xF x 0x55
  | .load x => IsXkk (encode (.load x)) 0xF x 0x65

theorem cls : Statement .cls := rfl

theorem ret : Statement .ret := rfl

theorem jp (nnn : Addr) : Statement (.jp nnn) := isNnn_pack _ _

theorem call (nnn : Addr) : Statement (.call nnn) := isNnn_pack _ _

theorem seImm (x : Nibble) (kk : Byte) : Statement (.seImm x kk) := isXkk_pack _ _ _

theorem sneImm (x : Nibble) (kk : Byte) : Statement (.sneImm x kk) := isXkk_pack _ _ _

theorem seReg (x y : Nibble) : Statement (.seReg x y) := isXyn_pack _ _ _ _

theorem ldImm (x : Nibble) (kk : Byte) : Statement (.ldImm x kk) := isXkk_pack _ _ _

theorem addImm (x : Nibble) (kk : Byte) : Statement (.addImm x kk) := isXkk_pack _ _ _

theorem ldReg (x y : Nibble) : Statement (.ldReg x y) := isXyn_pack _ _ _ _

theorem orReg (x y : Nibble) : Statement (.orReg x y) := isXyn_pack _ _ _ _

theorem andReg (x y : Nibble) : Statement (.andReg x y) := isXyn_pack _ _ _ _

theorem xorReg (x y : Nibble) : Statement (.xorReg x y) := isXyn_pack _ _ _ _

theorem addReg (x y : Nibble) : Statement (.addReg x y) := isXyn_pack _ _ _ _

theorem subReg (x y : Nibble) : Statement (.subReg x y) := isXyn_pack _ _ _ _

theorem shrReg (x y : Nibble) : Statement (.shrReg x y) := isXyn_pack _ _ _ _

theorem subnReg (x y : Nibble) : Statement (.subnReg x y) := isXyn_pack _ _ _ _

theorem shlReg (x y : Nibble) : Statement (.shlReg x y) := isXyn_pack _ _ _ _

theorem sneReg (x y : Nibble) : Statement (.sneReg x y) := isXyn_pack _ _ _ _

theorem ldI (nnn : Addr) : Statement (.ldI nnn) := isNnn_pack _ _

theorem jpV0 (nnn : Addr) : Statement (.jpV0 nnn) := isNnn_pack _ _

theorem rnd (x : Nibble) (kk : Byte) : Statement (.rnd x kk) := isXkk_pack _ _ _

theorem drw (x y n : Nibble) : Statement (.drw x y n) := isXyn_pack _ _ _ _

theorem skp (x : Nibble) : Statement (.skp x) := isXkk_pack _ _ _

theorem sknp (x : Nibble) : Statement (.sknp x) := isXkk_pack _ _ _

theorem ldVxDt (x : Nibble) : Statement (.ldVxDt x) := isXkk_pack _ _ _

theorem ldVxK (x : Nibble) : Statement (.ldVxK x) := isXkk_pack _ _ _

theorem ldDtVx (x : Nibble) : Statement (.ldDtVx x) := isXkk_pack _ _ _

theorem ldStVx (x : Nibble) : Statement (.ldStVx x) := isXkk_pack _ _ _

theorem addI (x : Nibble) : Statement (.addI x) := isXkk_pack _ _ _

theorem ldF (x : Nibble) : Statement (.ldF x) := isXkk_pack _ _ _

theorem ldB (x : Nibble) : Statement (.ldB x) := isXkk_pack _ _ _

theorem dump (x : Nibble) : Statement (.dump x) := isXkk_pack _ _ _

theorem load (x : Nibble) : Statement (.load x) := isXkk_pack _ _ _

end Sys2Proof.Laws.Fields
end

