-- ==== Sys2Proof/Tests/Slice0.lean ====
section
/-! SUPPORT. Small tests of single steps, with expected results from 95_test_vectors.md or worked out by hand from the rules
named, the checks of WellFormed on ill-formed terms, the decoding of words written out bit by bit from R81 and R84, and for
every statement with hypotheses a state and operands that meet them. -/

namespace Sys2Proof.Tests

open Sys2Proof.Machine

/-! ### Small states -/

/-- The state after reset with these values in `pc`, `I` and some general registers. -/
def mk (pc i : Word) (regs : List (Nibble × Byte)) : State :=
  regs.foldl (fun s p => s.setReg p.1 p.2) { State.reset with pc := pc, i := i }

/-- The state of most vectors: `pc = 0x200`, `I = 0x300`. -/
def at300 (regs : List (Nibble × Byte)) : State := mk 0x200 0x300 regs

/-- Some inputs for the next step. -/
def State.withInput (s : State) (keys : BitVec 16) (event : Option Nibble) (rand : Byte) : State :=
  { s with inputs := [{ keys := keys, event := event, rand := rand }] }

/-- A changed configuration. -/
def State.withCfg (s : State) (f : Config → Config) : State := { s with cfg := f s.cfg }

/-- The next state an outcome answers, if it answers one. -/
def nextOf : Host.Outcome State Fault Refusal → Option State
  | .next t => some t
  | .fault _ => none
  | .refused _ => none

theorem eq_next {o : Host.Outcome State Fault Refusal} {t : State} (h : nextOf o = some t) : o = .next t := by
  cases o <;> simp_all [nextOf]

/-- The state after one step on the word `w` at `pc`. -/
def ran (s : State) (w : Nat) : Option State := nextOf (step (s.withFetchWord 16 w))

/-- What one step on `w` gives, seen through `f`. -/
def see {α : Type} (s : State) (w : Nat) (f : State → α) : Option α := (ran s w).map f

/-- Kind and value of the fault record. -/
def faultOf (t : State) : Option (FaultKind × Nat) := t.fault.map fun r => (r.kind, r.value)

/-! ### WellFormed: a term that fails each check -/

theorem test_wf_default : Config.default.WellFormed := by decide
theorem test_wf_clock_zero : ¬ ({ Config.default with clockHz := 0 } : Config).WellFormed := by decide
theorem test_wf_clock_above_a_million : ¬ ({ Config.default with clockHz := 1000001 } : Config).WellFormed := by decide
theorem test_wf_font_base_too_high : ¬ ({ Config.default with fontBase := 0x1B1 } : Config).WellFormed := by decide
theorem test_wf_highest_font_base : ({ Config.default with fontBase := 0x1B0, clockHz := 1000000 } : Config).WellFormed := by
  decide
theorem test_wf_longest_image : ImageFits (List.replicate 3584 0) := List.length_replicate.le
theorem test_wf_image_too_long : ¬ ImageFits (List.replicate 3585 0) := by rw [ImageFits, List.length_replicate]; omega
theorem test_wf_refused_construction :
    State.construct { Config.default with clockHz := 0 } .zero [] [] = none := by decide

/-! ### Decoding: words written out bit by bit from R81 and R84 -/

theorem test_decode_cls : decodeWord 0b0000000011100000 = .ok .cls := by decide
theorem test_decode_ret : decodeWord 0b0000000011101110 = .ok .ret := by decide
theorem test_decode_jp : decodeWord 0b0001001000001010 = .ok (.jp 0x20A) := by decide
theorem test_decode_call : decodeWord 0b0010111111110001 = .ok (.call 0xFF1) := by decide
theorem test_decode_seImm : decodeWord 0b0011010110100011 = .ok (.seImm 5 0xA3) := by decide
theorem test_decode_sneImm : decodeWord 0b0100111000000001 = .ok (.sneImm 0xE 0x01) := by decide
theorem test_decode_seReg : decodeWord 0b0101000100100000 = .ok (.seReg 1 2) := by decide
theorem test_decode_ldImm : decodeWord 0b0110101001011100 = .ok (.ldImm 0xA 0x5C) := by decide
theorem test_decode_addImm : decodeWord 0b0111001111111110 = .ok (.addImm 3 0xFE) := by decide
theorem test_decode_ldReg : decodeWord 0b1000000100100000 = .ok (.ldReg 1 2) := by decide
theorem test_decode_orReg : decodeWord 0b1000000100100001 = .ok (.orReg 1 2) := by decide
theorem test_decode_andReg : decodeWord 0b1000000100100010 = .ok (.andReg 1 2) := by decide
theorem test_decode_xorReg : decodeWord 0b1000000100100011 = .ok (.xorReg 1 2) := by decide
theorem test_decode_addReg : decodeWord 0b1000000100100100 = .ok (.addReg 1 2) := by decide
theorem test_decode_subReg : decodeWord 0b1000000100100101 = .ok (.subReg 1 2) := by decide
theorem test_decode_shrReg : decodeWord 0b1000000100100110 = .ok (.shrReg 1 2) := by decide
theorem test_decode_subnReg : decodeWord 0b1000000100100111 = .ok (.subnReg 1 2) := by decide
theorem test_decode_shlReg : decodeWord 0b1000000100101110 = .ok (.shlReg 1 2) := by decide
theorem test_decode_sneReg : decodeWord 0b1001110000110000 = .ok (.sneReg 0xC 3) := by decide
theorem test_decode_ldI : decodeWord 0b1010001100000001 = .ok (.ldI 0x301) := by decide
theorem test_decode_jpV0 : decodeWord 0b1011000111111110 = .ok (.jpV0 0x1FE) := by decide
theorem test_decode_rnd : decodeWord 0b1100001100001111 = .ok (.rnd 3 0x0F) := by decide
theorem test_decode_drw : decodeWord 0b1101000100100101 = .ok (.drw 1 2 5) := by decide
theorem test_decode_skp : decodeWord 0b1110011110011110 = .ok (.skp 7) := by decide
theorem test_decode_sknp : decodeWord 0b1110011110100001 = .ok (.sknp 7) := by decide
theorem test_decode_ldVxDt : decodeWord 0b1111001100000111 = .ok (.ldVxDt 3) := by decide
theorem test_decode_ldVxK : decodeWord 0b1111001100001010 = .ok (.ldVxK 3) := by decide
theorem test_decode_ldDtVx : decodeWord 0b1111001100010101 = .ok (.ldDtVx 3) := by decide
theorem test_decode_ldStVx : decodeWord 0b1111001100011000 = .ok (.ldStVx 3) := by decide
theorem test_decode_addI : decodeWord 0b1111001100011110 = .ok (.addI 3) := by decide
theorem test_decode_ldF : decodeWord 0b1111001100101001 = .ok (.ldF 3) := by decide
theorem test_decode_ldB : decodeWord 0b1111001100110011 = .ok (.ldB 3) := by decide
theorem test_decode_dump : decodeWord 0b1111001101010101 = .ok (.dump 3) := by decide
theorem test_decode_load : decodeWord 0b1111001101100101 = .ok (.load 3) := by decide

/-- One word of each undecoded space (R93). -/
theorem test_decode_undecoded_spaces :
    [0x0000, 0x0123, 0x5121, 0x9128, 0x8128, 0x812F, 0xE000, 0xE39F, 0xF000, 0xF3FF].map (decodeTableWord 16) =
      List.replicate 10 none := by decide

/-- The bytes stand in memory high byte first (R62). -/
theorem test_decode_big_endian : decodeBytes [0x12, 0x0A, 0x77] = .ok (.jp 0x20A, [0x77]) := by decide
theorem test_decode_truncated : decodeBytes [0x12] = .error .truncated := by decide

/-! ### Single steps -/

/-- L2.5: clearing, `VF` unchanged. -/
theorem test_cls :
    see { at300 [(0xF, 7)] with display := Vector.replicate 32 1 } 0x00E0 (fun t => (t.pc, t.reg 0xF, t.pixel 0 0, t.pixel 0 31))
      = some (0x202, 7, false, false) := by decide

/-- R121: `D = 1`, `S[0] = 0x204`. -/
theorem test_ret :
    see { mk 0x300 0 [] with stack := (Vector.replicate 16 0).set 0 0x204, depth := 1 } 0x00EE (fun t => (t.pc, t.depth))
      = some (0x204, 0) := by decide
/-- R121: an empty stack. -/
theorem test_ret_empty : see (at300 []) 0x00EE (fun t => (t.pc, t.mode, faultOf t))
    = some (0x200, .haltedFatal, some (.stackUnderflow, 0)) := by decide

theorem test_jp : see (at300 []) 0x1208 (fun t => (t.pc, t.mode)) = some (0x208, .running) := by decide
/-- R122: an odd target. -/
theorem test_jp_odd : see (at300 []) 0x1FFF (fun t => (t.pc, faultOf t)) = some (0x200, some (.pcInvalid, 0xFFF)) := by decide

/-- L2.2: `CALL` at 0xFFE pushes 0x1000 (D32). -/
theorem test_call_at_the_end :
    see (mk 0xFFE 0 []) 0x2300 (fun t => (t.pc, t.depth, t.stack[0])) = some (0x300, 1, 0x1000) := by decide
/-- L2.2: a full stack wins over an invalid target (R223). -/
theorem test_call_full :
    see { at300 [] with depth := 16 } 0x21FF (fun t => (t.depth, faultOf t)) = some (16, some (.stackOverflow, 0x202)) := by decide

theorem test_seImm : see (at300 [(3, 0x10)]) 0x3310 (·.pc) = some 0x204 := by decide
/-- L2.2: not taken at 0xFFE faults all the same. -/
theorem test_seImm_at_the_end :
    see (mk 0xFFE 0 [(3, 0x10)]) 0x3311 (fun t => (t.pc, faultOf t)) = some (0xFFE, some (.pcInvalid, 0x1000)) := by decide
theorem test_sneImm : see (at300 [(3, 0x10)]) 0x4311 (·.pc) = some 0x204 := by decide
theorem test_sneImm_not_taken : see (at300 [(3, 0x10)]) 0x4310 (·.pc) = some 0x202 := by decide
theorem test_seReg : see (at300 [(1, 7), (2, 7)]) 0x5120 (·.pc) = some 0x204 := by decide
theorem test_seReg_not_taken : see (at300 [(1, 7), (2, 8)]) 0x5120 (·.pc) = some 0x202 := by decide
theorem test_sneReg : see (at300 [(1, 7), (2, 8)]) 0x9120 (·.pc) = some 0x204 := by decide
theorem test_sneReg_same : see (at300 []) 0x9110 (·.pc) = some 0x202 := by decide

/-- L2.2: no reduction modulo 4096. -/
theorem test_jpV0 : see (at300 [(0, 4)]) 0xB300 (·.pc) = some 0x304 := by decide
theorem test_jpV0_past_the_end :
    see (at300 [(0, 0xFF)]) 0xBFFF (fun t => (t.pc, faultOf t)) = some (0x200, some (.pcInvalid, 0x10FE)) := by decide

theorem test_ldImm : see (at300 []) 0x6A5C (fun t => (t.pc, t.reg 0xA)) = some (0x202, 0x5C) := by decide
/-- L1.1: no flag. -/
theorem test_addImm_no_flag :
    see (at300 [(0xA, 1), (0xF, 0x55)]) 0x7AFF (fun t => (t.pc, t.reg 0xA, t.reg 0xF)) = some (0x202, 0, 0x55) := by decide
theorem test_ldReg : see (at300 [(2, 0x42)]) 0x8120 (fun t => (t.reg 1, t.reg 2)) = some (0x42, 0x42) := by decide
/-- L2.3: `VF` is not reset. -/
theorem test_orReg :
    see (at300 [(1, 0xF0), (2, 0x0F), (0xF, 0x55)]) 0x8121 (fun t => (t.reg 1, t.reg 0xF)) = some (0xFF, 0x55) := by decide
theorem test_andReg : see (at300 [(1, 0xF0), (2, 0x3C)]) 0x8122 (·.reg 1) = some 0x30 := by decide
theorem test_xorReg : see (at300 [(1, 0xFF), (2, 0x0F)]) 0x8123 (·.reg 1) = some 0xF0 := by decide
/-- L1.2: 255 is no carry. -/
theorem test_addReg_255 :
    see (at300 [(0, 0x80), (1, 0x7F)]) 0x8014 (fun t => (t.reg 0, t.reg 0xF)) = some (0xFF, 0) := by decide
/-- L2.3: the flag is written last. -/
theorem test_addReg_into_VF : see (at300 [(0xF, 0xFF), (0, 2)]) 0x8F04 (·.reg 0xF) = some 1 := by decide
theorem test_subReg_borrow :
    see (at300 [(0, 3), (1, 5)]) 0x8015 (fun t => (t.reg 0, t.reg 0xF)) = some (0xFE, 0) := by decide
theorem test_subReg_equal :
    see (at300 [(0, 7), (1, 7)]) 0x8015 (fun t => (t.reg 0, t.reg 0xF)) = some (0, 1) := by decide
theorem test_subnReg :
    see (at300 [(0, 3), (1, 5)]) 0x8017 (fun t => (t.reg 0, t.reg 0xF)) = some (2, 1) := by decide
theorem test_subnReg_borrow :
    see (at300 [(0, 5), (1, 3)]) 0x8017 (fun t => (t.reg 0, t.reg 0xF)) = some (0xFE, 0) := by decide
/-- L2.3: the quirk off and on. -/
theorem test_shrReg :
    see (at300 [(0, 5), (1, 0x80)]) 0x8016 (fun t => (t.reg 0, t.reg 0xF)) = some (2, 1) := by decide
theorem test_shrReg_quirk :
    see (State.withCfg (at300 [(0, 5), (1, 0x80)]) fun c => { c with shiftUsesVy := true }) 0x8016
      (fun t => (t.reg 0, t.reg 0xF)) = some (0x40, 0) := by decide
theorem test_shlReg :
    see (at300 [(0, 0x81), (1, 1)]) 0x801E (fun t => (t.reg 0, t.reg 0xF)) = some (2, 1) := by decide
theorem test_shlReg_quirk :
    see (State.withCfg (at300 [(0, 0x81), (1, 1)]) fun c => { c with shiftUsesVy := true }) 0x801E
      (fun t => (t.reg 0, t.reg 0xF)) = some (2, 0) := by decide
/-- L2.3: `RAND = 0xAB`. -/
theorem test_rnd : see (State.withInput (at300 [(3, 9)]) 0 none 0xAB) 0xC30F (·.reg 3) = some 0x0B := by decide

theorem test_ldI : see (at300 []) 0xAFFF (fun t => (t.pc, t.i)) = some (0x202, 0xFFF) := by decide
theorem test_addI : see (at300 [(2, 0x10), (0xF, 7)]) 0xF21E (fun t => (t.i, t.reg 0xF)) = some (0x310, 7) := by decide
/-- L2.4: a sum of 0x1000 faults. -/
theorem test_addI_past_the_end :
    see (mk 0x200 0xFFF [(0, 1)]) 0xF01E (fun t => (t.i, faultOf t)) = some (0xFFF, some (.iOutOfRange, 0x1000)) := by decide
/-- L2.4: only the low nibble counts; and `FONT_BASE = 0x050`. -/
theorem test_ldF : see (at300 [(0, 0x1A)]) 0xF029 (·.i) = some 0x032 := by decide
theorem test_ldF_font_base :
    see (State.withCfg (at300 []) fun c => { c with fontBase := 0x050 }) 0xF029 (·.i) = some 0x050 := by decide
/-- L1.5. -/
theorem test_ldB :
    see (at300 [(0, 234)]) 0xF033 (fun t => (t.readByte 0x300, t.readByte 0x301, t.readByte 0x302, t.i)) =
      some (2, 3, 4, 0x300) := by decide
/-- L2.4: no byte is written, not even at 0x200. -/
theorem test_ldB_font_write :
    see (mk 0x202 0x1FE [(0, 7)]) 0xF033 (fun t => (t.readByte 0x200, faultOf t)) = some (0, some (.fontWrite, 0x1FE)) := by decide
theorem test_dump :
    see (at300 [(0, 1), (1, 2), (2, 3)]) 0xF155 (fun t => (t.readByte 0x300, t.readByte 0x301, t.readByte 0x302, t.i)) =
      some (1, 2, 0, 0x300) := by decide
/-- L2.4: the quirk at the top of memory. -/
theorem test_dump_quirk_at_the_end :
    see (State.withCfg (mk 0x200 0xFFF [(0, 9)]) fun c => { c with loadStoreIncrementsI := true }) 0xF055
      (fun t => (t.readByte 0xFFF, faultOf t)) = some (0, some (.iOutOfRange, 0x1000)) := by decide
/-- L2.4: the quirk, and the registers above `Vx` stay. -/
theorem test_load :
    see (State.withCfg ((at300 [(3, 0x77)]).writeBytes 0x300 [7, 8, 9]) fun c => { c with loadStoreIncrementsI := true }) 0xF265
      (fun t => (t.reg 0, t.reg 1, t.reg 2, t.reg 3, t.i)) = some (7, 8, 9, 0x77, 0x303) := by decide
/-- L2.4: reading the font is legal. -/
theorem test_load_font : see (mk 0x200 0 []) 0xF065 (·.reg 0) = some 0xF0 := by decide

/-- L3.5: glyph 8 at (62, 30), clipped at the right and wrapped at the bottom; the rows are 30, 31, 0, 1, 2. -/
theorem test_drw_edges :
    see (mk 0x200 0x028 [(0, 62), (1, 30)]) 0xD015
      (fun t => ([30, 31, 0, 1, 2, 3].map fun r => (t.pixel 62 r, t.pixel 63 r, t.pixel 0 r), t.reg 0xF)) =
      some ([(true, true, false), (true, false, false), (true, true, false), (true, false, false), (true, true, false),
        (false, false, false)], 0) := by decide
/-- L2.5: pixel (0, 0) set before: it turns off, the rest of the row turns on, and `VF = 1`. -/
theorem test_drw_collision :
    see { mk 0x200 0 [] with display := (Vector.replicate 32 0).set 0 1 } 0xD015
      (fun t => ([0, 1, 3, 4].map fun c => t.pixel c 0, t.reg 0xF)) = some ([false, true, true, false], 1) := by decide

theorem test_skp : see (State.withInput (at300 [(3, 5)]) 0x0020 none 0) 0xE39E (·.pc) = some 0x204 := by decide
/-- L2.6: an index above 0xF faults, before the skip past 0xFFC. -/
theorem test_skp_index :
    see (State.withInput (mk 0xFFC 0 [(3, 0x15)]) 0x0020 none 0) 0xE39E (fun t => (t.pc, faultOf t)) =
      some (0xFFC, some (.keyIndex, 0x15)) := by decide
theorem test_sknp : see (State.withInput (at300 [(3, 5)]) 0x0020 none 0) 0xE3A1 (·.pc) = some 0x202 := by decide
/-- L2.6: this step's snapshot, not the last one's. -/
theorem test_sknp_snapshot :
    see { at300 [(3, 5)] with keys := 0x0020 } 0xE3A1 (fun t => (t.pc, t.keys)) = some (0x204, 0) := by decide
/-- L2.6: read before the tick. -/
theorem test_ldVxDt : see { at300 [] with dt := 9 } 0xF307 (fun t => (t.reg 3, t.dt)) = some (9, 8) := by decide
/-- L2.6: an event in the same step is ignored. -/
theorem test_ldVxK :
    see (State.withInput (at300 []) 0 (some 5) 0) 0xF30A (fun t => (t.pc, t.mode, t.waitReg, t.reg 3)) =
      some (0x202, .waitingForKey, 3, 0) := by decide
theorem test_ldDtVx : see (at300 [(3, 10)]) 0xF315 (·.dt) = some 9 := by decide
/-- L2.6: `CLOCK_HZ = 600`. -/
theorem test_ldDtVx_600 :
    see (State.withCfg (at300 [(3, 10)]) fun c => { c with clockHz := 600 }) 0xF315 (fun t => (t.dt, t.acc)) =
      some (10, 60) := by decide
theorem test_ldStVx : see (at300 [(3, 2)]) 0xF318 (fun t => (t.st, t.tone)) = some (1, true) := by decide
theorem test_ldStVx_short : see (at300 [(3, 1)]) 0xF318 (fun t => (t.st, t.tone)) = some (0, false) := by decide

/-- The record of a fault (R224, R220): L3.8's third step. -/
theorem test_fault_record :
    see (mk 0x204 0x1FF [(0, 7)]) 0xF033
      (fun t => t.fault.map fun r => (r.kind, r.code, r.faultPc, r.inst, r.value)) =
      some (some (.fontWrite, 7, 0x204, 0xF033, 0x1FF)) := by decide

/-- L2.7: a waiting step with `WAITREG = F`, `KEV_CODE = 1`. -/
def waitingF (event : Option Nibble) : State :=
  State.withInput { at300 [(0xF, 0x77)] with mode := .waitingForKey, waitReg := 0xF, dt := 3 } 0 event 0

theorem test_waiting_event :
    (nextOf (step (waitingF (some 1)))).map (fun t => (t.reg 0xF, t.mode, t.pc, t.dt)) = some (1, .running, 0x200, 2) := by decide
theorem test_waiting_no_event :
    (nextOf (step (waitingF none))).map (fun t => (t.reg 0xF, t.mode, t.pc, t.dt)) = some (0x77, .waitingForKey, 0x200, 2) := by decide

/-- A halted state. -/
def halted : State := (at300 []).halt ⟨.decodeFault, 0⟩

theorem test_halted : step halted = .next halted := eq_next (by decide)

/-! ### Witnesses: for every statement with hypotheses, a state and operands that meet all of them -/

theorem test_meets_EncodeOfDecodeIsTheWord : decodeWord 0x8F1E = .ok (.shlReg 0xF 1) := by decide

theorem test_meets_ExactlyTheListedWordsAreUndecoded :
    (Undecoded 0x0000 ∧ Undecoded 0x512F ∧ Undecoded 0x9121 ∧ Undecoded 0x8008 ∧ Undecoded 0xE09F ∧ Undecoded 0xFF64) ∧
      ¬ Undecoded 0x00E0 ∧ ¬ Undecoded 0x5120 ∧ ¬ Undecoded 0x9120 ∧ ¬ Undecoded 0x800E ∧ ¬ Undecoded 0xE0A1 ∧
      ¬ Undecoded 0xFF65 := by
  refine ⟨⟨.inl (by decide), .inr (.inl (by decide)), .inr (.inl (by decide)), .inr (.inr (.inl (by decide))),
    .inr (.inr (.inr (.inl (by decide)))), .inr (.inr (.inr (.inr (by decide))))⟩, ?_, ?_, ?_, ?_, ?_, ?_⟩
  all_goals rintro (h | h | h | h | h) <;> exact absurd h (by decide)

/-- At the first and at the last slot of memory. -/
theorem test_meets_StepRunsTheDecodedInstruction :
    let s := (mk 0x200 0 []).withFetchWord 16 0x8F14
    let e := (mk 0xFFE 0 []).withFetchWord 16 0x8F14
    (s.mode = .running ∧ PcValid s.pc ∧ (Instr.addReg 0xF 1).WellFormed ∧
      decodeBytes [s.readByte s.pc.toNat, s.readByte (s.pc.toNat + 1)] = .ok (.addReg 0xF 1, [])) ∧
    (e.mode = .running ∧ PcValid e.pc ∧
      decodeBytes [e.readByte e.pc.toNat, e.readByte (e.pc.toNat + 1)] = .ok (.addReg 0xF 1, [])) := by
  refine ⟨⟨rfl, by decide, trivial, by decide⟩, rfl, by decide, by decide⟩

theorem test_meets_UndecodedWordRaisesDecodeFault :
    State.reset.mode = .running ∧ PcValid State.reset.pc ∧ Undecoded State.reset.fetchWord := by decide

theorem test_meets_HaltedStepChangesNothing : halted.mode = .haltedFatal := by decide

theorem test_meets_HaltedIsTerminal : halted.mode = .haltedFatal := by decide

theorem test_meets_WaitingStepWithoutEventKeepsWaiting :
    (waitingF none).mode = .waitingForKey ∧ (waitingF none).nextInput.event = none := by decide

theorem test_meets_WaitingStepDeliversTheKey :
    (waitingF (some 0)).mode = .waitingForKey ∧ (waitingF (some 0)).nextInput.event = some 0 ∧
      (waitingF (some 0xF)).nextInput.event = some 0xF := by decide

/-- `LD VA, 0x5C` at 0x200, in a step that carries the event `e`. -/
def loading (e : Option Nibble) : State := State.withInput ((at300 []).withFetchWord 16 0x6A5C) 0 e 0

/-- The state after that step. -/
def loaded : State := ((loading none).enter.setReg 0xA 0x5C).tick

theorem test_step_loading : step (loading none) = .next loaded := eq_next (by decide)

theorem test_step_loading_event : step (loading (some 5)) = .next loaded := eq_next (by decide)

theorem test_exec_loading : exec (.ldImm 0xA 0x5C) (loading none) = .next loaded := eq_next (by decide)

theorem test_loaded : loaded.mode ≠ .haltedFatal := by decide

theorem test_meets_KeyEventOutsideTheWaitIsIgnored :
    (loading (some 5)).mode ≠ .waitingForKey ∧
      step { loading none with inputs := ⟨0, some 5, 0⟩ :: [] } = .next loaded ∧
      halted.mode ≠ .waitingForKey ∧
      step { halted with inputs := ⟨0, some 5, 0⟩ :: [] } = .next { halted with inputs := ⟨0, some 5, 0⟩ :: [] } :=
  ⟨by decide, test_step_loading_event, by decide, eq_next rfl⟩

/-- In RUNNING and in WAITING_FOR_KEY. -/
theorem test_meets_ClockAdvancesInEveryStepThatDoesNotFault :
    (step (loading none) = .next loaded ∧ loaded.mode ≠ .haltedFatal) ∧
      step (waitingF none) = .next (waitingF none).sample.tick ∧ (waitingF none).sample.tick.mode ≠ .haltedFatal :=
  ⟨⟨test_step_loading, test_loaded⟩, eq_next rfl, by decide⟩

theorem test_meets_TimersChangeOnlyByTheirWritersAndTheTick :
    exec (.ldImm 0xA 0x5C) (loading none) = .next loaded ∧ loaded.mode ≠ .haltedFatal ∧
      (∀ x, Instr.ldImm 0xA 0x5C ≠ .ldDtVx x) ∧ (∀ x, Instr.ldImm 0xA 0x5C ≠ .ldStVx x) :=
  ⟨test_exec_loading, test_loaded, by simp, by simp⟩

theorem test_meets_KeypadHoldsThisStepsSnapshot :
    exec (.ldImm 0xA 0x5C) (loading none) = .next loaded ∧ loaded.mode ≠ .haltedFatal :=
  ⟨test_exec_loading, test_loaded⟩

/-- A later step's event stays where it is; a step without a listed entry counts (log 3). -/
theorem test_inputs_taken :
    (nextOf (step { loading none with inputs := [⟨1, none, 0⟩, ⟨2, some 5, 0⟩] })).map (fun t => (t.keys, t.inputs)) =
        some (1, [⟨2, some 5, 0⟩]) ∧
      (nextOf (step { loading none with inputs := [] })).map (fun t => (t.inputs, t.draws)) = some ([], 1) := by decide

theorem test_step_reset : step State.reset = .next (State.reset.halt ⟨.decodeFault, 0⟩) := eq_next (by decide)

/-- A step with a listed entry, a step without one, and a faulting step. -/
theorem test_meets_EachStepTakesItsOwnInputs :
    (step (loading none) = .next loaded ∧ loaded.mode ≠ .haltedFatal ∧ (loading none).inputs = [⟨0, none, 0⟩]) ∧
      (∃ t, step { loading none with inputs := [] } = .next t ∧ t.mode ≠ .haltedFatal) ∧
      step State.reset = .next (State.reset.halt ⟨.decodeFault, 0⟩) ∧
      (State.reset.halt ⟨.decodeFault, 0⟩).mode = .haltedFatal :=
  ⟨⟨test_step_loading, test_loaded, rfl⟩, ⟨_, rfl, by decide⟩, test_step_reset, rfl⟩

/-- A completed and a faulting step. -/
theorem test_meets_InvariantKeptByEveryStep :
    ((loading none).Inv ∧ step (loading none) = .next loaded) ∧
      State.reset.Inv ∧ step State.reset = .next (State.reset.halt ⟨.decodeFault, 0⟩) :=
  ⟨⟨by decide, test_step_loading⟩, by decide, test_step_reset⟩

theorem test_meets_ValidStatesRunForEver : (loading none).Inv ∧ (waitingF none).Inv ∧ halted.Inv := by decide

theorem test_meets_FaultEntryIsPreciseRollback :
    State.reset.mode ≠ .haltedFatal ∧ step State.reset = .next (State.reset.halt ⟨.decodeFault, 0⟩) ∧
      (State.reset.halt ⟨.decodeFault, 0⟩).mode = .haltedFatal :=
  ⟨by decide, test_step_reset, rfl⟩

theorem test_exec_jp_zero : exec (.jp 0) (at300 []) = .next ((at300 []).halt ⟨.pcInvalid, 0⟩) := eq_next rfl

/-- Each of the three cases: completed, faulted, waiting. -/
theorem test_meets_ControlStateWrittenOnlyByWaitAndFault :
    exec (.ldImm 0xA 0x5C) (loading none) = .next loaded ∧
      exec (.jp 0) (at300 []) = .next ((at300 []).halt ⟨.pcInvalid, 0⟩) ∧
      exec (.ldVxK 3) (at300 []) = .next ((at300 []).enter.await 3).tick :=
  ⟨test_exec_loading, test_exec_jp_zero, eq_next rfl⟩

theorem test_meets_ConfigurationNeverChanges :
    step (loading none) = .next loaded ∧ ∃ s, State.construct Config.default .zero [0x12] [] = some s :=
  ⟨test_step_loading, _, if_pos (by decide)⟩

theorem test_meets_FontRegionNeverMutated :
    (loading none).cfg.fontWritePolicy = .fault ∧ step (loading none) = .next loaded ∧ 0x1FF < 0x200 :=
  ⟨rfl, test_step_loading, by decide⟩

/-- The registers beside the ones written, and `VF` under both settings of the quirk of `ADD I, Vx`. -/
theorem test_meets_RegistersWrittenOnlyAsListed :
    exec (.ldImm 0xA 0x5C) (loading none) = .next loaded ∧
      (Instr.ldImm 0xA 0x5C).writesReg Config.default 0xB = false ∧
      (Instr.addReg 1 2).writesReg Config.default 2 = false ∧ (Instr.load 3).writesReg Config.default 4 = false ∧
      (Instr.addI 3).writesReg Config.default 0xF = false ∧
      (Instr.addI 3).writesReg { Config.default with addISetsVf := true } 0xE = false :=
  ⟨test_exec_loading, by decide, by decide, by decide, by decide, by decide⟩

theorem test_meets_AddressRegisterWrittenOnlyAsListed :
    exec (.ldImm 0xA 0x5C) (loading none) = .next loaded ∧ (Instr.ldImm 0xA 0x5C).writesI Config.default = false ∧
      (Instr.dump 3).writesI Config.default = false :=
  ⟨test_exec_loading, rfl, rfl⟩

/-- A state inside one call. -/
def called : State := { mk 0x300 0x300 [] with stack := (Vector.replicate 16 0).set 0 0x202, depth := 1 }

/-- The state after the return from it. -/
def returned : State := ({ called.enter with depth := 0 } : State).setPc 0x202 |>.tick

theorem test_meets_StackTouchedOnlyByCallAndReturn :
    exec (.ldImm 0xA 0x5C) (loading none) = .next loaded ∧ (Instr.ldImm 0xA 0x5C).usesStack = false ∧
      exec .ret called = .next returned :=
  ⟨test_exec_loading, rfl, eq_next rfl⟩

theorem test_meets_DisplayChangesOnlyByClearAndDraw :
    exec (.ldImm 0xA 0x5C) (loading none) = .next loaded ∧ (Instr.ldImm 0xA 0x5C).writesDisplay = false :=
  ⟨test_exec_loading, rfl⟩

/-- A storing form, right below and right above its bytes, and a form that stores nothing. -/
theorem test_meets_MemoryChangesOnlyInTheStoredBytes :
    exec (.dump 1) (at300 []) = .next ((at300 []).enter.writeBytes 0x300 [0, 0]).tick ∧
      ¬ ((at300 []).i.toNat ≤ 0x2FF ∧ 0x2FF < (at300 []).i.toNat + (Instr.dump 1).storedBytes) ∧
      ¬ ((at300 []).i.toNat ≤ 0x302 ∧ 0x302 < (at300 []).i.toNat + (Instr.dump 1).storedBytes) ∧
      ¬ ((at300 []).i.toNat ≤ 0x300 ∧ 0x300 < (at300 []).i.toNat + (Instr.ldImm 0xA 0x5C).storedBytes) :=
  ⟨eq_next rfl, by decide, by decide, by decide⟩

theorem test_meets_SequentialInstructionsAdvancePcByTwo :
    exec (.ldImm 0xA 0x5C) (loading none) = .next loaded ∧ loaded.mode ≠ .haltedFatal ∧
      (Instr.ldImm 0xA 0x5C).sequential = true :=
  ⟨test_exec_loading, test_loaded, rfl⟩

/-- At the last slot: `CLS` and the like, and the five with checks of their own at the last values that pass them, with the
quirk of the dump and the load on. -/
theorem test_meets_SequentialFlowPastTheEndFaults :
    let s := mk 0xFFE 0xFF1 [(0, 0x0E)]
    let d := mk 0xFFE 0xFFD []
    let q := State.withCfg (mk 0xFFE 0xFEF []) fun c => { c with loadStoreIncrementsI := true }
    (¬ PcValid (s.pc + 2) ∧ (Instr.ldImm 0xA 0x5C).faultsOnlyPastTheEnd = true ∧ s.i.toNat + (0xF#4).toNat ≤ 0x1000 ∧
      s.i.toNat + (s.reg 0).toNat ≤ 0xFFF) ∧
    (¬ PcValid (d.pc + 2) ∧ d.i.toNat + 2 ≤ 0xFFF ∧ 0x1FF < d.i.toNat) ∧
    (¬ PcValid (q.pc + 2) ∧ q.i.toNat + (0xF#4).toNat + 1 ≤ 0xFFF ∧ 0x1FF < q.i.toNat) := by decide

/-- By hand from R191 and R106: a draw at 0xFFE is rolled back. -/
theorem test_drw_at_the_end :
    see (mk 0xFFE 0 []) 0xD015 (fun t => (t.pc, t.pixel 0 0, faultOf t)) =
      some (0xFFE, false, some (.pcInvalid, 0x1000)) := by decide

theorem test_meets_ConstructionMeetsTheInvariant :
    (State.construct Config.default .zero [0x60, 0x05] []).isSome = true := by decide

/-- Both clauses, at the longest image and one byte above it, and the bytes at their ends. -/
theorem test_meets_ConstructionLoadsFontAndImage :
    Config.default.WellFormed ∧ (List.replicate 3584 (0 : Byte)).length ≤ 3584 ∧
      3584 < (List.replicate 3585 (0 : Byte)).length ∧ 3583 < (List.replicate 3584 (0 : Byte)).length := by
  simp only [List.length_replicate]
  decide

/-- `pc + 2` is a valid `pc` at the first and at the last slot but one, and `a + 4` at the last but two. -/
theorem test_meets_next_slot :
    PcValid ((mk 0x200 0 []).pc + 2) ∧ PcValid ((mk 0xFFC 0 []).pc + 2) ∧ ¬ PcValid ((mk 0xFFE 0 []).pc + 2) ∧
      PcValid ((mk 0xFFA 0 []).pc + 4) ∧ ¬ PcValid ((mk 0xFFC 0 []).pc + 4) := by decide

theorem test_meets_LoadsAndLogicWriteTheirResult : PcValid ((at300 []).pc + 2) := by decide
theorem test_meets_AddImmediateWrapsAndSetsNoFlag : PcValid ((at300 []).pc + 2) := by decide
theorem test_meets_AddRegistersSetsCarry : PcValid ((at300 []).pc + 2) := by decide
theorem test_meets_SubtractionsSetNotBorrow : PcValid ((at300 []).pc + 2) := by decide

/-- Both settings of the quirk. -/
theorem test_meets_ShiftsWriteResultAndShiftedOutBit : ∀ q ∈ [false, true],
    let s := State.withCfg (at300 [(0, 0x81), (1, 0x01)]) fun c => { c with shiftUsesVy := q }
    PcValid (s.pc + 2) ∧
      (if q = true then (0x01 : Byte) else 0x81) = (if s.cfg.shiftUsesVy = true then s.reg 1 else s.reg 0) := by decide

theorem test_meets_RandomIsTheStepsByteMasked : PcValid ((at300 []).pc + 2) := by decide

/-- Valid and invalid targets of the jumps, at the ends of the valid range. -/
theorem test_meets_JumpsGoToTheirTarget :
    PcValid (BitVec.ofNat 16 (0x200#12).toNat) ∧ PcValid (BitVec.ofNat 16 (0xFFE#12).toNat) ∧
      ¬ PcValid (BitVec.ofNat 16 (0x1FE#12).toNat) ∧ ¬ PcValid (BitVec.ofNat 16 (0xFFF#12).toNat) ∧
      PcValid (BitVec.ofNat 16 ((0x1FE#12).toNat + ((at300 [(0, 2)]).reg 0).toNat)) ∧
      ¬ PcValid (BitVec.ofNat 16 ((0xFFF#12).toNat + ((at300 [(0, 0xFF)]).reg 0).toNat)) := by decide

/-- Skips taken and not taken, from the last slots. -/
theorem test_meets_SkipsStepOverOneInstruction :
    PcValid ((mk 0xFFA 0 []).pc + 4) ∧ ¬ PcValid ((mk 0xFFC 0 []).pc + 4) ∧ PcValid ((mk 0xFFC 0 []).pc + 2) ∧
      ¬ PcValid ((mk 0xFFE 0 []).pc + 2) ∧ (0xF : Nibble) ≠ 0 := by decide

/-- `CALL` at depths 0, 15 and 16, to a valid and an invalid target. -/
theorem test_meets_CallPushesTheReturnAddress :
    (at300 []).depth.val < 16 ∧ ({ at300 [] with depth := 15 } : State).depth.val < 16 ∧
      PcValid (BitVec.ofNat 16 (0xFFE#12).toNat) ∧ ¬ PcValid (BitVec.ofNat 16 (0xFFF#12).toNat) ∧
      ({ at300 [] with depth := 16 } : State).depth.val = 16 := by decide

/-- `RET` on an empty stack, at depth 1 and at depth 16, to a valid and an invalid address. -/
theorem test_meets_ReturnPopsTheReturnAddress :
    (at300 []).depth.val = 0 ∧ called.depth.val = (0 : Fin 16).val + 1 ∧ PcValid called.stack[(0 : Fin 16)] ∧
      ({ called with depth := 16 } : State).depth.val = (15 : Fin 16).val + 1 ∧
      ¬ PcValid called.stack[(15 : Fin 16)] := by decide

/-- The state after a completed `CALL 0x300`. -/
def afterCall : State :=
  ({ (at300 []).enter with stack := (Vector.replicate 16 0).set 0 0x202, depth := 1 } : State).setPc 0x300 |>.tick

theorem test_meets_ReturnAfterCallComesBack :
    exec (.call 0x300) (at300 []) = .next afterCall ∧ afterCall.mode ≠ .haltedFatal ∧ PcValid ((at300 []).pc + 2) :=
  ⟨eq_next (by decide), by decide, by decide⟩

theorem test_meets_LoadAddressSetsI : PcValid ((at300 []).pc + 2) := by decide
theorem test_meets_FontAddressSelectsTheGlyph : PcValid ((at300 []).pc + 2) := by decide

/-- A sum of 0xFFF and a sum of 0x1000. -/
theorem test_meets_AddToAddressStaysInMemoryOrFaults :
    (mk 0x200 0xFFE [(0, 1)]).i.toNat + ((mk 0x200 0xFFE [(0, 1)]).reg 0).toNat ≤ 0xFFF ∧
      PcValid ((mk 0x200 0xFFE [(0, 1)]).pc + 2) ∧
      0xFFF < (mk 0x200 0xFFF [(0, 1)]).i.toNat + ((mk 0x200 0xFFF [(0, 1)]).reg 0).toNat := by decide

/-- `I` at 0x200 and 0xFFD; 0xFFE and 0xFFF; 0x1FF. -/
theorem test_meets_BcdStoresThreeDigits :
    ((mk 0x200 0x200 []).i.toNat + 2 ≤ 0xFFF ∧ 0x1FF < (mk 0x200 0x200 []).i.toNat ∧ PcValid ((mk 0x200 0x200 []).pc + 2)) ∧
    ((mk 0x200 0xFFD []).i.toNat + 2 ≤ 0xFFF ∧ 0x1FF < (mk 0x200 0xFFD []).i.toNat) ∧
    0xFFE ≤ (mk 0x200 0xFFE []).i.toNat ∧ 0xFFE ≤ (mk 0x200 0xFFF []).i.toNat ∧
    ((mk 0x200 0x1FF []).i.toNat ≤ 0x1FF ∧ (mk 0x200 0x1FF []).cfg.fontWritePolicy = .fault) := by decide

/-- The states of the quirk on and off for the dump and the load. -/
def quirky (i : Word) : State := State.withCfg (mk 0x200 i []) fun c => { c with loadStoreIncrementsI := true }

theorem test_meets_DumpStoresTheRegisters :
    ((mk 0x200 0xFF0 []).i.toNat + (0xF#4).toNat ≤ 0xFFF ∧ 0x1FF < (mk 0x200 0xFF0 []).i.toNat ∧
      (mk 0x200 0xFF0 []).cfg.loadStoreIncrementsI ≠ true ∧ PcValid ((mk 0x200 0xFF0 []).pc + 2)) ∧
    ((quirky 0xFEF).i.toNat + (0xF#4).toNat + 1 ≤ 0xFFF ∧ 0x1FF < (quirky 0xFEF).i.toNat ∧
      (quirky 0xFEF).cfg.loadStoreIncrementsI = true ∧ PcValid ((quirky 0xFEF).pc + 2)) ∧
    ((quirky 0xFF0).cfg.loadStoreIncrementsI = true ∧ (quirky 0xFF0).i.toNat + (0xF#4).toNat = 0xFFF) := by decide

theorem test_meets_LoadReadsTheRegisters :
    ((mk 0x200 0xFF0 []).i.toNat + (0xF#4).toNat ≤ 0xFFF ∧ (mk 0x200 0xFF0 []).cfg.loadStoreIncrementsI ≠ true ∧
      PcValid ((mk 0x200 0xFF0 []).pc + 2)) ∧
    ((quirky 0xFEF).i.toNat + (0xF#4).toNat + 1 ≤ 0xFFF ∧ PcValid ((quirky 0xFEF).pc + 2)) ∧
    ((quirky 0xFF0).cfg.loadStoreIncrementsI = true ∧ (quirky 0xFF0).i.toNat + (0xF#4).toNat = 0xFFF) := by decide

/-- A store across the top of memory, a store below 0x200, a read across the top; the failing address is the second. -/
theorem test_meets_MemoryFaultsReportTheLowestAddress :
    ((∀ j < 1, Writable (mk 0x200 0xFFF []).cfg ((mk 0x200 0xFFF []).i.toNat + j)) ∧
      ¬ Writable (mk 0x200 0xFFF []).cfg ((mk 0x200 0xFFF []).i.toNat + 1) ∧ 1 ≤ (1#4).toNat ∧ 1 ≤ 2) ∧
    ¬ Writable (mk 0x200 0x1FF []).cfg ((mk 0x200 0x1FF []).i.toNat + 0) ∧
    ((∀ j < 1, (mk 0x200 0xFFF []).i.toNat + j ≤ 0xFFF) ∧ 0xFFF < (mk 0x200 0xFFF []).i.toNat + 1 ∧
      1 ≤ (1#4).toNat ∧ 1 < (2#4).toNat) := by decide

theorem test_meets_ClearDisplayClearsEveryPixel : PcValid ((at300 []).pc + 2) := by decide

/-- The last sprite that fits, and the empty one at the top. -/
theorem test_meets_DrawTogglesExactlyTheSpritesPixels :
    (mk 0x200 0xFF1 []).i.toNat + (0xF#4).toNat ≤ 0x1000 ∧ (mk 0x200 0xFFF []).i.toNat + (0#4).toNat ≤ 0x1000 ∧
      PcValid ((mk 0x200 0xFF1 []).pc + 2) := by decide

/-- Before a draw of the first row of glyph 0 at (0, 0): every display row holds `fill`. -/
def canvas (fill : BitVec 64) : State :=
  { mk 0x200 0 [] with display := Vector.replicate 32 fill, inputs := [StepInput.idle, StepInput.idle] }

/-- After it. -/
def drawn (fill : BitVec 64) : State := ((canvas fill).enter.draw 0 1 [0xF0]).tick

theorem test_drawn_clear : exec (.drw 0 1 1) (canvas 0) = .next (drawn 0) := eq_next (by decide)

theorem test_drawn_collision : exec (.drw 0 1 1) (canvas 1) = .next (drawn 1) := eq_next (by decide)

/-- Both clauses: without and with a collision. -/
theorem test_meets_DrawReportsCollisionInVF :
    (exec (.drw 0 1 1) (canvas 0) = .next (drawn 0) ∧ (drawn 0).mode ≠ .haltedFatal ∧ (drawn 0).reg 0xF = 0 ∧
      (drawn 0).pixel 3 0 = true) ∧
    (exec (.drw 0 1 1) (canvas 1) = .next (drawn 1) ∧ (drawn 1).mode ≠ .haltedFatal ∧ (canvas 1).pixel 0 0 = true ∧
      (drawn 1).pixel 0 0 = false) :=
  ⟨⟨test_drawn_clear, by decide, by decide, by decide⟩, test_drawn_collision, by decide, by decide, by decide⟩

/-- The state after the draw, moved back to its instruction. -/
def again (fill : BitVec 64) : State := { drawn fill with pc := 0x200 }

/-- After the second draw. -/
def redrawn (fill : BitVec 64) : State := ((again fill).enter.draw 0 1 [0xF0]).tick

theorem test_redrawn : exec (.drw 0 1 1) (again 0) = .next (redrawn 0) := eq_next (by decide)

theorem test_meets_DrawingTwiceRestoresTheDisplay :
    exec (.drw 0 1 1) (canvas 0) = .next (drawn 0) ∧ (drawn 0).mode ≠ .haltedFatal ∧
      (again 0).display = (drawn 0).display ∧ (again 0).i = (canvas 0).i ∧ (again 0).reg 0 = (canvas 0).reg 0 ∧
      (again 0).reg 1 = (canvas 0).reg 1 ∧
      (∀ k < (1#4).toNat, (again 0).readByte ((canvas 0).i.toNat + k) = (canvas 0).readByte ((canvas 0).i.toNat + k)) ∧
      exec (.drw 0 1 1) (again 0) = .next (redrawn 0) ∧ (redrawn 0).mode ≠ .haltedFatal :=
  ⟨test_drawn_clear, by decide, rfl, rfl, by decide, by decide, by decide, test_redrawn, by decide⟩

/-- The hypotheses of the statement that is expected to fail, on a clear display; -/
theorem test_meets_SecondDrawAlwaysReportsCollision :
    (0 : Nibble) ≠ 0xF ∧ (1 : Nibble) ≠ 0xF ∧ exec (.drw 0 1 1) (canvas 0) = .next (drawn 0) ∧
      (drawn 0).mode ≠ .haltedFatal ∧ exec (.drw 0 1 1) { drawn 0 with pc := (canvas 0).pc } = .next (redrawn 0) ∧
      (redrawn 0).mode ≠ .haltedFatal ∧ (canvas 0).SpriteDraws 0 1 1 0 0 :=
  ⟨by decide, by decide, test_drawn_clear, by decide, test_redrawn, by decide, 0, by decide, by decide⟩

/-- and on a full display, where by R191 and R194 the second draw reports no collision (log 25). -/
theorem test_second_draw_on_a_full_display :
    exec (.drw 0 1 1) (again (-1)) = .next (redrawn (-1)) ∧ (redrawn (-1)).reg 0xF = 0 :=
  ⟨eq_next (by decide), by decide⟩

/-- An index of 0xF and one of 0x10, under both policies. -/
theorem test_meets_KeypadSkipsReadTheSnapshot :
    ((at300 [(3, 0x0F)]).reg 3).toNat ≤ 0xF ∧
      (State.withCfg (at300 [(3, 0xFF)]) fun c => { c with keyIndexPolicy := .mask }).cfg.keyIndexPolicy = .mask ∧
      0xF < ((at300 [(3, 0x10)]).reg 3).toNat ∧ (at300 [(3, 0x10)]).cfg.keyIndexPolicy = .fault := by decide

theorem test_meets_GetDelayTimerReadsBeforeTheTick : PcValid ((at300 []).pc + 2) := by decide
theorem test_meets_SetTimersAreTickedInTheSameStep : PcValid ((at300 []).pc + 2) := by decide
theorem test_meets_WaitForKeyEntersTheWait :
    PcValid ((at300 []).pc + 2) ∧ ¬ PcValid ((mk 0xFFE 0 []).pc + 2) := by decide

end Sys2Proof.Tests
end

section
/-! PROOF. The configuration is fixed at construction (R53): a frame lemma for the operations that had none, then for the
execute phase, for `exec` and for `step`. -/

namespace Sys2Proof.Machine

theorem State.push_cfg {s t : State} {p : Word} (h : s.push p = .ok t) : t.cfg = s.cfg := by
  obtain ⟨_, rfl⟩ := State.push_eq_ok.mp h
  rfl

theorem State.pop_cfg {s t : State} {p : Word} (h : s.pop = .ok (p, t)) : t.cfg = s.cfg := by
  obtain ⟨_, _, rfl⟩ := State.pop_eq_ok.mp h
  rfl

@[simp] theorem State.draw_cfg (s : State) (x y : Nibble) (bs : List Byte) : (s.draw x y bs).cfg = s.cfg := rfl

/-- No completed execute phase changes the configuration: each ends in one of the named updates. -/
theorem Completed.cfg_eq {rand : Byte} {e w : State} {i : Instr} (h : Completed rand e w i) : w.cfg = e.cfg := by
  cases i <;> simp only [Completed] at h
  case ret =>
    obtain ⟨p, t, hpop, rfl⟩ := h
    rw [State.setPc_cfg, State.pop_cfg hpop]
  case call nnn =>
    obtain ⟨t, hpush, rfl⟩ := h
    rw [State.setPc_cfg, State.push_cfg hpush]
  case skp x | sknp x =>
    obtain ⟨k, -, rfl⟩ := h
    exact State.skipIf_cfg _ _
  case addI x =>
    obtain ⟨-, rfl⟩ := h
    split <;> rfl
  case drw x y n | ldB x =>
    obtain ⟨-, rfl⟩ := h
    rfl
  case dump x | load x =>
    obtain ⟨-, -, rfl⟩ := h
    exact State.incrementI_cfg _ _
  all_goals
    subst h
    simp only [State.setDisplay_cfg, State.setPc_cfg, State.skipIf_cfg, State.setReg_cfg, State.setResult_cfg,
      State.setI_cfg, State.await_cfg, State.setDt_cfg, State.setSt_cfg]

theorem exec_cfg {i : Instr} {s t : State} (h : exec i s = .next t) : t.cfg = s.cfg := by
  rcases exec_next h with ⟨r, rfl⟩ | ⟨w, hw, -, rfl⟩
  · exact State.halt_cfg s r
  · calc w.tick.cfg = w.cfg := State.tick_cfg w
      _ = s.enter.cfg := hw.cfg_eq
      _ = s.cfg := State.enter_cfg s

/-- No step changes the configuration, in any mode (R53). -/
theorem step_cfg {s t : State} (h : step s = .next t) : t.cfg = s.cfg := by
  rcases step_next h with ⟨-, rfl⟩ | ⟨-, -, rfl⟩ | ⟨-, code, -, rfl⟩ | ⟨-, -, ⟨e, -, rfl⟩ | ⟨i, -, hexec⟩⟩
  · rfl
  · rw [State.tick_cfg, State.sample_cfg]
  · rw [State.tick_cfg, State.deliver_cfg, State.sample_cfg]
  · exact State.halt_cfg s _
  · exact exec_cfg hexec

theorem State.construct_cfg {cfg : Config} {fill : ResetFill} {image : List Byte} {inputs : List StepInput} {s : State}
    (h : State.construct cfg fill image inputs = some s) : s.cfg = cfg := by
  unfold State.construct at h
  split at h
  · obtain rfl := Option.some.inj h
    rfl
  · cases h

/-- Settles O21: the case split over what a step can do, and over what construction can answer. -/
theorem configurationNeverChanges : Obligations.ConfigurationNeverChanges :=
  ⟨fun _ _ => step_cfg, fun _ _ _ _ _ => State.construct_cfg⟩

end Sys2Proof.Machine
end

section
/-! PROOF. Undecoded words (R93): the words a family decodes are disjoint from its undecoded space, so the step of an
undecoded word ends at the decode stage in the fault DecodeFault (R104). -/

namespace Sys2Proof.Machine

/-- No value of `n` is both a family-8 instruction (R87) and in the undecoded space of family 8 (R93). -/
theorem family8_spaces_disjoint :
    ∀ n : Nibble, n ∈ [0x0, 0x1, 0x2, 0x3, 0x4, 0x5, 0x6, 0x7, 0xE] → n ∉ [0x8, 0x9, 0xA, 0xB, 0xC, 0xD, 0xF] := by
  decide

/-- A word that decodes lies in none of the five undecoded spaces: in each space, the family's own law of what it
decodes excludes it. -/
theorem not_undecoded_of_decodeWord_ok {w : Word} {i : Instr} (h : decodeWord w = .ok i) : ¬ Undecoded w := by
  rintro (⟨hop, hcls, hret⟩ | ⟨hop | hop, hn⟩ | ⟨hop, hn⟩ | ⟨hop, hkk⟩ | ⟨hop, hkk⟩)
  · rw [decodeWord_family0 hop] at h
    obtain ⟨hw, -⟩ | ⟨hw, -⟩ := decodeFamily0_ok h
    · exact hcls hw
    · exact hret hw
  · rw [decodeWord_family5 hop] at h
    exact hn (decodeRegisterSkip_ok h).1
  · rw [decodeWord_family9 hop] at h
    exact hn (decodeRegisterSkip_ok h).1
  · rw [decodeWord_family8 hop] at h
    exact family8_spaces_disjoint _ (List.mem_map_of_mem (f := Prod.fst) (decodeFamily8_ok h)) hn
  · rw [decodeWord_familyE hop] at h
    exact hkk (List.mem_map_of_mem (f := Prod.fst) (decodeFamilyE_ok h))
  · rw [decodeWord_familyF hop] at h
    exact hkk (List.mem_map_of_mem (f := Prod.fst) (decodeFamilyF_ok h))

/-- Settles O6: the decoder rejects the fetched word, and a running step of a rejected word is fault entry. -/
theorem undecodedWordRaisesDecodeFault : Obligations.UndecodedWordRaisesDecodeFault := by
  intro s hrun hpc hundecoded
  rw [step_running hrun]
  cases hd : decodeWord s.fetchWord with
  | ok i => exact absurd hundecoded (not_undecoded_of_decodeWord_ok hd)
  | error e => exact runningStep_undecoded exec hpc hd

end Sys2Proof.Machine
end

section
/-! PROOF. A halted step changes nothing (R113). -/

namespace Sys2Proof.Machine

/-- Settles O7: the step law of the mode HALTED_FATAL, which neither reads the inputs nor writes the state. -/
theorem haltedStepChangesNothing : Obligations.HaltedStepChangesNothing := by
  intro s hhalted
  exact step_halted hhalted

end Sys2Proof.Machine
end

section
/-! PROOF. The jumps and the skips (41_control_flow.md): each of them ends its execute phase in one write of `pc`, so one
lemma about such an instruction settles where they go. -/

namespace Sys2Proof.Machine

/-- An instruction whose execute phase only writes `pc` goes to the `p` it writes, or is PcInvalid with it (R106). -/
theorem goesTo_of_completed_setPc {i : Instr} {s : State} {p : Word}
    (h : Completed s.nextInput.rand s.enter (s.enter.setPc p) i) : GoesTo i s p := by
  have hexec : exec i s = finish s (s.enter.setPc p) := exec_completed h
  constructor
  · intro hvalid
    refine ⟨(s.enter.setPc p).tick, hexec.trans (finish_valid hvalid), by simp, by simp, ?_, by simp⟩
    exact State.clocked_tick (by simp) (by simp) (by simp) (by simp)
  · intro hinvalid
    exact hexec.trans (finish_invalid hinvalid)

/-- A skip from `a` is a write of `pc`: `a + 4` when its condition holds, `a + 2` when not (R120). -/
theorem enter_skipIf_eq_setPc (s : State) (c : Bool) :
    s.enter.skipIf c = s.enter.setPc (if c then s.pc + 4 else s.pc + 2) := by
  cases c
  · rfl
  · have htwice : s.pc + 2 + 2 = s.pc + 4 := BitVec.add_assoc s.pc 2 2
    rw [if_pos rfl, ← htwice]
    rfl

/-- An instruction whose execute phase is a skip goes to `a + 4` or to `a + 2` (R120). -/
theorem goesTo_of_completed_skipIf {i : Instr} {s : State} {c : Bool}
    (h : Completed s.nextInput.rand s.enter (s.enter.skipIf c) i) : GoesTo i s (if c then s.pc + 4 else s.pc + 2) :=
  goesTo_of_completed_setPc (enter_skipIf_eq_setPc s c ▸ h)

/-- A skip on equality of two bytes (R124, R126). -/
theorem goesTo_of_completed_skipIf_eq {i : Instr} {s : State} {a b : Byte}
    (h : Completed s.nextInput.rand s.enter (s.enter.skipIf (a == b)) i) :
    GoesTo i s (if a = b then s.pc + 4 else s.pc + 2) := by
  simpa only [beq_iff_eq] using goesTo_of_completed_skipIf h

/-- A skip on inequality of two bytes (R125, R127). -/
theorem goesTo_of_completed_skipIf_ne {i : Instr} {s : State} {a b : Byte}
    (h : Completed s.nextInput.rand s.enter (s.enter.skipIf (a != b)) i) :
    GoesTo i s (if a = b then s.pc + 2 else s.pc + 4) := by
  simpa only [bne_iff_ne, ite_not] using goesTo_of_completed_skipIf h

theorem zextAddr_eq_ofNat (nnn : Addr) : zextAddr nnn = BitVec.ofNat 16 nnn.toNat :=
  (BitVec.ofNat_toNat 16 nnn).symm

/-- The sum of `Bnnn` is at most 0x10FE, so 16 bits hold it (R128). -/
theorem toNat_offsetTarget (nnn : Addr) (v0 : Byte) : (offsetTarget nnn v0).toNat = nnn.toNat + v0.toNat := by
  have hnnn : nnn.toNat < 4096 := nnn.isLt
  have hv0 : v0.toNat < 256 := v0.isLt
  rw [offsetTarget, BitVec.toNat_ofNat]
  exact Nat.mod_eq_of_lt (by omega)

/-- Settles O39: both jumps are a write of `pc`, and the target of `Bnnn` is the exact sum. -/
theorem jumpsGoToTheirTarget : Obligations.JumpsGoToTheirTarget := by
  intro s nnn
  refine ⟨?_, ?_, goesTo_of_completed_setPc ?_, goesTo_of_completed_setPc ?_, toNat_offsetTarget nnn (s.reg 0)⟩
  · simp [decodeWord_family1]
  · simp [decodeWord_familyB]
  · simp only [Completed, zextAddr_eq_ofNat]
  · simp only [Completed, offsetTarget, State.enter_reg]

/-- `SE Vx, Vy` and `SNE Vx, Vy` decode exactly with `n = 0` (R86). -/
theorem decodeRegisterSkip_packXyn (i : Instr) (op x y n : Nibble) :
    decodeRegisterSkip i (packXyn op x y n) = if n = 0 then .ok i else .error (.unknownWord (packXyn op x y n)) := by
  rw [decodeRegisterSkip, nField_packXyn]

theorem decodeWord_packXyn_family5 (x y n : Nibble) : decodeWord (packXyn 0x5 x y n) =
    if n = 0 then .ok (.seReg x y) else .error (.unknownWord (packXyn 0x5 x y n)) := by
  rw [decodeWord_family5 (opField_packXyn ..), xField_packXyn, yField_packXyn, decodeRegisterSkip_packXyn]

theorem decodeWord_packXyn_family9 (x y n : Nibble) : decodeWord (packXyn 0x9 x y n) =
    if n = 0 then .ok (.sneReg x y) else .error (.unknownWord (packXyn 0x9 x y n)) := by
  rw [decodeWord_family9 (opField_packXyn ..), xField_packXyn, yField_packXyn, decodeRegisterSkip_packXyn]

/-- Settles O40: what the words of the four skips decode to, then each skip as an instance of the skip lemmas. -/
theorem skipsStepOverOneInstruction : Obligations.SkipsStepOverOneInstruction := by
  intro s x y kk
  have hundecoded : ∀ n : Nibble, n ≠ 0 →
      decodeWord (packXyn 0x5 x y n) = .error (.unknownWord (packXyn 0x5 x y n)) ∧
      decodeWord (packXyn 0x9 x y n) = .error (.unknownWord (packXyn 0x9 x y n)) := fun n hn =>
    ⟨(decodeWord_packXyn_family5 x y n).trans (if_neg hn), (decodeWord_packXyn_family9 x y n).trans (if_neg hn)⟩
  refine ⟨?_, ?_, decodeWord_packXyn_family5 x y 0, decodeWord_packXyn_family9 x y 0, hundecoded, ?_, ?_, ?_, ?_⟩
  · simp [decodeWord_family3]
  · simp [decodeWord_family4]
  · exact goesTo_of_completed_skipIf_eq (by simp only [Completed, State.enter_reg])
  · exact goesTo_of_completed_skipIf_ne (by simp only [Completed, State.enter_reg])
  · exact goesTo_of_completed_skipIf_eq (by simp only [Completed, State.enter_reg])
  · exact goesTo_of_completed_skipIf_ne (by simp only [Completed, State.enter_reg])

end Sys2Proof.Machine
end

section
/-! PROOF. Register loads, logic, addition and subtraction (42_alu.md): the execute phase of each is one register write, or
a result and its flag, so one lemma about each of the two writes settles what every such instruction leaves. -/

namespace Sys2Proof.Machine

/-- The words of family 8 that decode (R87): the converse of `decodeFamily8_ok`, on packed words. -/
theorem decodeWord_packXyn_family8 {x y n : Nibble} {i : Instr}
    (h : (n, i) ∈ [(0x0, .ldReg x y), (0x1, .orReg x y), (0x2, .andReg x y), (0x3, .xorReg x y), (0x4, .addReg x y),
      (0x5, .subReg x y), (0x6, .shrReg x y), (0x7, .subnReg x y), (0xE, .shlReg x y)]) :
    decodeWord (packXyn 0x8 x y n) = .ok i := by
  rw [decodeWord_family8 (opField_packXyn ..)]
  simp only [List.mem_cons, List.not_mem_nil, or_false, Prod.mk.injEq] at h
  rcases h with ⟨rfl, rfl⟩ | ⟨rfl, rfl⟩ | ⟨rfl, rfl⟩ | ⟨rfl, rfl⟩ | ⟨rfl, rfl⟩ | ⟨rfl, rfl⟩ | ⟨rfl, rfl⟩ | ⟨rfl, rfl⟩ |
    ⟨rfl, rfl⟩
  all_goals simp [decodeFamily8]

section Completes
variable {i : Instr} {s : State} {x : Nibble} {b : Byte}

/-- An execute phase that ends in `w`, with mode, `pc`, clock and timers as entered, completes with the registers of `w`. -/
theorem completesWithRegs_of_completed {w : State} {v : Nibble → Byte} (hvalid : PcValid (s.pc + 2))
    (h : Completed s.nextInput.rand s.enter w i) (hmode : w.mode = s.mode) (hpc : w.pc = s.pc + 2)
    (hclock : s.Clocked s.dt s.st w.tick) (hreg : ∀ r, w.reg r = v r) : CompletesWithRegs i s v := by
  have hexec : exec i s = .next w.tick := (exec_completed h).trans (finish_valid (hpc ▸ hvalid))
  exact ⟨w.tick, hexec, hmode, hpc, hclock, hreg⟩

/-- An instruction whose execute phase is one register write. -/
theorem completesWithRegs_of_completed_setReg (hvalid : PcValid (s.pc + 2))
    (h : Completed s.nextInput.rand s.enter (s.enter.setReg x b) i) :
    CompletesWithRegs i s fun r => if r = x then b else s.reg r := by
  refine completesWithRegs_of_completed hvalid h (by simp) (by simp) ?_ fun r => ?_
  · exact State.clocked_tick (by simp) (by simp) (by simp) (by simp)
  · rw [State.reg_setReg, State.enter_reg]

/-- An instruction whose execute phase is a result and a flag, the flag last (R31). -/
theorem completesWithRegs_of_completed_setResult {p : Prop} [Decidable p] (hvalid : PcValid (s.pc + 2))
    (h : Completed s.nextInput.rand s.enter (s.enter.setResult x b (decide p)) i) :
    CompletesWithRegs i s fun r => if r = 0xF then (if p then 1 else 0) else if r = x then b else s.reg r := by
  refine completesWithRegs_of_completed hvalid h (by simp) (by simp) ?_ fun r => ?_
  · exact State.clocked_tick (by simp) (by simp) (by simp) (by simp)
  · simp only [State.reg_setResult, State.enter_reg, flagByte, decide_eq_true_eq]

end Completes

/-- The sum of two bytes, by its number (R142, R147). -/
theorem byte_add_eq_ofNat (a b : Byte) : a + b = BitVec.ofNat 8 ((a.toNat + b.toNat) % 256) :=
  BitVec.eq_of_toNat_eq (by simp)

/-- The difference of two bytes, by its number (R148, R150). -/
theorem byte_sub_eq_ofNat (a b : Byte) : a - b = BitVec.ofNat 8 ((256 + a.toNat - b.toNat) % 256) := by
  apply BitVec.eq_of_toNat_eq
  have hb : b.toNat < 256 := b.isLt
  rw [BitVec.toNat_sub, BitVec.toNat_ofNat]
  omega

/-- Settles O33: the five words decode, and each instruction is one register write. -/
theorem loadsAndLogicWriteTheirResult : Obligations.LoadsAndLogicWriteTheirResult := by
  intro s x y kk
  refine ⟨?_, decodeWord_packXyn_family8 (by simp), decodeWord_packXyn_family8 (by simp),
    decodeWord_packXyn_family8 (by simp), decodeWord_packXyn_family8 (by simp), fun hvalid => ⟨?_, ?_, ?_, ?_, ?_⟩⟩
  · simp [decodeWord_family6]
  all_goals
    refine completesWithRegs_of_completed_setReg hvalid ?_
    simp only [Completed, State.enter_reg]

/-- Settles O34: one register write, of the sum as a number. -/
theorem addImmediateWrapsAndSetsNoFlag : Obligations.AddImmediateWrapsAndSetsNoFlag := by
  intro s x kk
  refine ⟨by simp [decodeWord_family7], fun hvalid => completesWithRegs_of_completed_setReg hvalid ?_⟩
  simp only [Completed, State.enter_reg, byte_add_eq_ofNat]

/-- Settles O35: the sum as a number, then its carry. -/
theorem addRegistersSetsCarry : Obligations.AddRegistersSetsCarry := by
  intro s x y
  refine ⟨decodeWord_packXyn_family8 (by simp), fun hvalid => completesWithRegs_of_completed_setResult hvalid ?_⟩
  simp only [Completed, State.enter_reg, byte_add_eq_ofNat, carry]

/-- Settles O36: the difference as a number, then not-borrow, for both orders of the operands. -/
theorem subtractionsSetNotBorrow : Obligations.SubtractionsSetNotBorrow := by
  intro s x y
  refine ⟨decodeWord_packXyn_family8 (by simp), decodeWord_packXyn_family8 (by simp), fun hvalid => ⟨?_, ?_⟩⟩
  all_goals
    refine completesWithRegs_of_completed_setResult hvalid ?_
    simp only [Completed, State.enter_reg, byte_sub_eq_ofNat, notBorrow]

end Sys2Proof.Machine
end

section
/-! PROOF. Address register, font address and BCD (43_address_memory.md): a completed write of `I`, the stored bytes read
back, and the fault of a store at its lowest unwritable address, each as a lemma of its own. -/

namespace Sys2Proof.Machine

/-- An execute phase that ends in `w` with `pc` as entered completes, where `a + 2` is a valid `pc` (R25, R106). -/
theorem exec_of_completed_valid {i : Instr} {s w : State} (hvalid : PcValid (s.pc + 2))
    (h : Completed s.nextInput.rand s.enter w i) (hpc : w.pc = s.pc + 2) : exec i s = .next w.tick :=
  (exec_completed h).trans (finish_valid (hpc ▸ hvalid))

/-- An instruction whose execute phase is one write of `I`. -/
theorem exec_of_completed_setI {i : Instr} {s : State} {a : Word} (hvalid : PcValid (s.pc + 2))
    (h : Completed s.nextInput.rand s.enter (s.enter.setI a) i) :
    ∃ t, exec i s = .next t ∧ t.mode = s.mode ∧ t.i.toNat = a.toNat ∧ ∀ r, t.reg r = s.reg r :=
  ⟨(s.enter.setI a).tick, exec_of_completed_valid hvalid h (by simp), by simp, by simp, by simp⟩

/-- The zero extension keeps the address (R82). -/
theorem toNat_zextAddr (nnn : Addr) : (zextAddr nnn).toNat = nnn.toNat :=
  BitVec.toNat_setWidth_of_le (by decide)

/-- A glyph address is at most 0x104A, so 16 bits hold it (R172). -/
theorem toNat_fontAddress (cfg : Config) (b : Byte) :
    (fontAddress cfg b).toNat = cfg.fontBase.toNat + 5 * (b.toNat % 16) := by
  have hbase : cfg.fontBase.toNat < 4096 := cfg.fontBase.isLt
  rw [fontAddress, BitVec.toNat_ofNat]
  exact Nat.mod_eq_of_lt (by omega)

/-- Settles O44: one write of `I`, of the zero-extended address. -/
theorem loadAddressSetsI : Obligations.LoadAddressSetsI := by
  intro s nnn
  refine ⟨by simp [decodeWord_familyA], fun hvalid => ?_⟩
  rw [← toNat_zextAddr nnn]
  exact exec_of_completed_setI hvalid rfl

/-- Settles O45: one write of `I`, of the glyph address. -/
theorem fontAddressSelectsTheGlyph : Obligations.FontAddressSelectsTheGlyph := by
  intro s x
  refine ⟨by simp [decodeWord_familyF, decodeFamilyF], fun hvalid => ?_⟩
  rw [← toNat_fontAddress]
  refine exec_of_completed_setI hvalid ?_
  simp only [Completed, State.enter_cfg, State.enter_reg]

/-- A stored byte read back, by its place among the stored bytes. -/
theorem State.readByte_writeBytes_add (s : State) (a : Nat) {bs : List Byte} {k : Nat} (hk : k < bs.length) :
    (s.writeBytes a bs).readByte (a + k) = bs[k] := by
  rw [State.readByte_writeBytes, dif_pos (by omega)]
  simp only [Nat.add_sub_cancel_left]

/-- A byte that a store may not write raises the fault of its kind, with its address as the value (R65, R68). -/
theorem checkWrite_of_not_writable {cfg : Config} {a : Nat} (h : ¬ Writable cfg a) :
    checkWrite cfg a = some ⟨storeFaultKind a, a⟩ := by
  unfold checkWrite storeFaultKind
  by_cases htop : 0xFFF < a
  · rw [if_pos htop, if_pos htop]
  · have hinside : a ≤ 0xFFF := Nat.not_lt.mp htop
    cases hpolicy : cfg.fontWritePolicy with
    | allow => exact absurd ⟨hinside, .inr hpolicy⟩ h
    | fault =>
      have hlow : a ≤ 0x1FF := Nat.not_lt.mp fun hhigh => h ⟨hinside, .inl hhigh⟩
      rw [if_neg htop, if_neg htop, if_pos ⟨hlow, rfl⟩]

/-- A store of `n` bytes from `a` raises at its lowest unwritable address (R68, R223). -/
theorem checkSpan_checkWrite_eq_some {cfg : Config} {a n k : Nat} (hk : k < n) (hlow : ∀ j < k, Writable cfg (a + j))
    (hfail : ¬ Writable cfg (a + k)) :
    checkSpan (checkWrite cfg) a n = some ⟨storeFaultKind (a + k), a + k⟩ :=
  checkSpan_eq_some hk (fun j hj => checkWrite_eq_none.mpr (hlow j hj)) (checkWrite_of_not_writable hfail)

/-- `LD B, Vx` faults at the lowest of its three addresses that it may not write (R173). -/
theorem exec_ldB_unwritable {s : State} {k : Nat} (x : Nibble) (hk : k < 3)
    (hlow : ∀ j < k, Writable s.cfg (s.i.toNat + j)) (hfail : ¬ Writable s.cfg (s.i.toNat + k)) :
    exec (.ldB x) s = .next (s.halt ⟨storeFaultKind (s.i.toNat + k), s.i.toNat + k⟩) := by
  rw [exec]
  refine perform_error ?_
  rw [State.enter_cfg, State.enter_i, checkSpan_checkWrite_eq_some hk hlow hfail, afterCheck_some]

/-- `LD B, Vx` past the top of memory: the lowest failing address is `I` itself, or 0x1000 (R173). -/
theorem exec_ldB_memOutOfRange {s : State} (x : Nibble) (h : 0xFFE ≤ s.i.toNat) :
    exec (.ldB x) s = .next (s.halt ⟨.memOutOfRange, max s.i.toNat 0x1000⟩) := by
  have hmax : max s.i.toNat 0x1000 = s.i.toNat + (0x1000 - s.i.toNat) := by omega
  have hlow : ∀ j < 0x1000 - s.i.toNat, Writable s.cfg (s.i.toNat + j) := fun j hj => ⟨by omega, .inl (by omega)⟩
  have hfail : ¬ Writable s.cfg (s.i.toNat + (0x1000 - s.i.toNat)) := fun hw => absurd hw.1 (by omega)
  have hkind : storeFaultKind (s.i.toNat + (0x1000 - s.i.toNat)) = .memOutOfRange := if_pos (by omega)
  rw [exec_ldB_unwritable x (by omega) hlow hfail, hkind, hmax]

/-- `LD B, Vx` below 0x200 under the policy `fault`: the lowest failing address is `I` (R65, R173). -/
theorem exec_ldB_fontWrite {s : State} (x : Nibble) (h : s.i.toNat ≤ 0x1FF) (hpolicy : s.cfg.fontWritePolicy = .fault) :
    exec (.ldB x) s = .next (s.halt ⟨.fontWrite, s.i.toNat⟩) := by
  have hfail : ¬ Writable s.cfg s.i.toNat := by
    rintro ⟨-, hhigh | hallow⟩
    · omega
    · rw [hpolicy] at hallow
      cases hallow
  have hkind : storeFaultKind s.i.toNat = .fontWrite := if_neg (by omega)
  simpa only [Nat.add_zero, hkind] using exec_ldB_unwritable (k := 0) x (by decide) (by simp) hfail

/-- `LD B, Vx` where all three addresses may be written: the digits are stored (R173). -/
theorem exec_ldB_writable {s : State} (x : Nibble) (hvalid : PcValid (s.pc + 2))
    (h : ∀ k < 3, Writable s.cfg (s.i.toNat + k)) :
    exec (.ldB x) s = .next (s.enter.writeBytes s.i.toNat (bcdDigits (s.reg x))).tick := by
  refine exec_of_completed_valid hvalid ⟨?_, ?_⟩ (by simp)
  · rw [State.enter_cfg, State.enter_i]
    exact checkSpan_eq_none.mpr fun k hk => checkWrite_eq_none.mpr (h k hk)
  · rw [State.enter_i, State.enter_reg]

@[simp] theorem length_bcdDigits (b : Byte) : (bcdDigits b).length = 3 := rfl

/-- The digits as numbers, hundreds first (R69, R173). -/
theorem toNat_bcdDigits (b : Byte) :
    (bcdDigits b)[0].toNat = b.toNat / 100 ∧ (bcdDigits b)[1].toNat = b.toNat / 10 % 10 ∧
      (bcdDigits b)[2].toNat = b.toNat % 10 := by
  have hb : b.toNat < 256 := b.isLt
  simp only [bcdDigits, List.getElem_cons_zero, List.getElem_cons_succ, BitVec.toNat_ofNat]
  omega

/-- Settles O47: the digits read back after the completed store; each fault at its lowest failing address. -/
theorem bcdStoresThreeDigits : Obligations.BcdStoresThreeDigits := by
  intro s x
  refine ⟨by simp [decodeWord_familyF, decodeFamilyF], ?_, exec_ldB_memOutOfRange x, exec_ldB_fontWrite x⟩
  intro htop hfont hvalid
  have hwritable : ∀ k < 3, Writable s.cfg (s.i.toNat + k) := fun k hk => ⟨by omega, hfont.imp_left (by omega)⟩
  have hread : ∀ k (hk : k < (bcdDigits (s.reg x)).length),
      (s.enter.writeBytes s.i.toNat (bcdDigits (s.reg x))).tick.readByte (s.i.toNat + k) = (bcdDigits (s.reg x))[k] :=
    fun k hk => (State.tick_readByte _ _).trans (State.readByte_writeBytes_add _ _ hk)
  obtain ⟨hhundreds, htens, hones⟩ := toNat_bcdDigits (s.reg x)
  refine ⟨_, exec_ldB_writable x hvalid hwritable, by simp, by simp, by simp, ?_, ?_, ?_⟩
  · exact (congrArg BitVec.toNat (hread 0 (by simp))).trans hhundreds
  · exact (congrArg BitVec.toNat (hread 1 (by simp))).trans htens
  · exact (congrArg BitVec.toNat (hread 2 (by simp))).trans hones

end Sys2Proof.Machine
end

section
/-! PROOF. Clear and draw (44_display.md): a drawn row is an XOR, so two rows collide exactly where drawing turns a set pixel
off, and the collision flag of a whole sprite says whether the draw turned any pixel of the display off. -/

namespace Sys2Proof.Machine

/-- A row collides with the columns drawn on it exactly where the XOR turns a set pixel off (R191, R194). -/
theorem rowCollides_iff_turnsOff {row mask : BitVec 64} :
    rowCollides row mask = true ↔ ∃ c : Fin 64, row.getLsbD c = true ∧ (row ^^^ mask).getLsbD c = false := by
  have hpixel : ∀ c, (row.getLsbD c = true ∧ mask.getLsbD c = true) ↔
      (row.getLsbD c = true ∧ (row ^^^ mask).getLsbD c = false) := by
    intro c
    rw [BitVec.getLsbD_xor]
    exact and_congr_right fun hrow => by simp [hrow]
  simp only [rowCollides_iff, hpixel, Fin.exists_iff, exists_prop]

/-- The collision flag of a draw says whether some pixel of the display was turned off (R194): a row that changed is the row
of some sprite row, and no two sprite rows share one. -/
theorem drawRows_hit_iff_turnsOff (d : Vector (BitVec 64) 32) (x0 y : Nat) {bs : List Byte} (hlen : bs.length ≤ 32) :
    (drawRows d x0 y bs).2 = true ↔
      ∃ (c : Fin 64) (r : Fin 32), d[r].getLsbD c = true ∧ (drawRows d x0 y bs).1[r].getLsbD c = false := by
  rw [drawRows_hit x0 bs d y hlen]
  constructor
  · rintro ⟨k, hk, hcollides⟩
    obtain ⟨c, hbefore, hafter⟩ := rowCollides_iff_turnsOff.mp hcollides
    rw [← drawRows_row x0 bs d y k hk hlen] at hafter
    exact ⟨c, ⟨(y + k) % 32, Nat.mod_lt _ (by decide)⟩, hbefore, hafter⟩
  · rintro ⟨c, ⟨r, hr⟩, hbefore, hafter⟩
    by_cases hrow : ∃ k < bs.length, (y + k) % 32 = r
    · obtain ⟨k, hk, rfl⟩ := hrow
      refine ⟨k, hk, rowCollides_iff_turnsOff.mpr ⟨c, hbefore, ?_⟩⟩
      rw [← drawRows_row x0 bs d y k hk hlen]
      exact hafter
    · push Not at hrow
      have hsame : (drawRows d x0 y bs).1[r] = d[r] := drawRows_other x0 bs d y r hr hrow
      have hstays : d[r].getLsbD c = false := hsame ▸ hafter
      exact absurd (hbefore.symm.trans hstays) (by decide)

/-- The pixels after the whole display was replaced (R33). -/
@[simp] theorem State.setDisplay_pixel (s : State) (d : Vector (BitVec 64) 32) (c : Fin 64) (r : Fin 32) :
    (s.setDisplay d).pixel c r = d[r].getLsbD c := rfl

/-- `VF` after a draw of a sprite of at most 32 rows says whether some pixel was turned off (R194). -/
theorem State.reg_draw_flag (s : State) (x y : Nibble) {bs : List Byte} (hlen : bs.length ≤ 32) :
    (s.draw x y bs).reg 0xF = if ∃ c r, s.pixel c r = true ∧ (s.draw x y bs).pixel c r = false then 1 else 0 := by
  have hhit := drawRows_hit_iff_turnsOff s.display ((s.reg x).toNat % 64) ((s.reg y).toNat % 32) hlen
  rw [State.draw, State.reg_setFlag, if_pos rfl, flagByte]
  exact if_congr hhit rfl rfl

/-- A completed `DRW` is the draw of its sprite's bytes, ticked. -/
theorem exec_drw_next {s t : State} {x y n : Nibble} (h : exec (.drw x y n) s = .next t) (hmode : t.mode ≠ .haltedFatal) :
    t = (s.enter.draw x y (s.enter.readBytes s.i.toNat n.toNat)).tick := by
  obtain ⟨r, rfl⟩ | ⟨w, ⟨-, rfl⟩, -, rfl⟩ := exec_next h
  · exact absurd (State.halt_mode s r) hmode
  · rw [State.enter_i]

/-- Settles O53: a completed draw is a draw of at most 15 rows, whose flag is the collision. -/
theorem drawReportsCollisionInVF : Obligations.DrawReportsCollisionInVF := by
  intro s t x y n hexec hmode
  obtain rfl := exec_drw_next hexec hmode
  have hlen : (s.enter.readBytes s.i.toNat n.toNat).length ≤ 32 := by
    rw [State.length_readBytes]
    exact n.isLt.le.trans (by decide)
  have hflag := s.enter.reg_draw_flag x y hlen
  simp only [State.tick_reg, State.tick_pixel]
  simp only [State.enter_pixel] at hflag
  exact ⟨fun hoff => hflag.trans (if_pos hoff), fun hoff => hflag.trans (if_neg hoff)⟩

/-- Settles O51: the execute phase replaces the display by clear rows, and is no register write. -/
theorem clearDisplayClearsEveryPixel : Obligations.ClearDisplayClearsEveryPixel := by
  refine ⟨rfl, fun s hvalid => ?_⟩
  have hexec : exec .cls s = .next (s.enter.setDisplay (Vector.replicate 32 0)).tick :=
    exec_of_completed_valid hvalid rfl (by simp)
  exact ⟨_, hexec, by simp, by simp, by simp⟩

end Sys2Proof.Machine
end

section
/-! PROOF. The delay and sound timers (45_timers_keypad.md): a read is one register write, of the timer before its tick; a
write of a timer stands before the tick of the same step, which counts the new value down. -/

namespace Sys2Proof.Machine

/-- The words of family F that decode (R89): the converse of `decodeFamilyF_ok`, on packed words. -/
theorem decodeWord_packXkk_familyF {x : Nibble} {kk : Byte} {i : Instr}
    (h : (kk, i) ∈ [(0x07, .ldVxDt x), (0x0A, .ldVxK x), (0x15, .ldDtVx x), (0x18, .ldStVx x), (0x1E, .addI x),
      (0x29, .ldF x), (0x33, .ldB x), (0x55, .dump x), (0x65, .load x)]) :
    decodeWord (packXkk 0xF x kk) = .ok i := by
  rw [decodeWord_familyF (opField_packXkk ..)]
  simp only [List.mem_cons, List.not_mem_nil, or_false, Prod.mk.injEq] at h
  rcases h with ⟨rfl, rfl⟩ | ⟨rfl, rfl⟩ | ⟨rfl, rfl⟩ | ⟨rfl, rfl⟩ | ⟨rfl, rfl⟩ | ⟨rfl, rfl⟩ | ⟨rfl, rfl⟩ | ⟨rfl, rfl⟩ |
    ⟨rfl, rfl⟩
  all_goals simp [decodeFamilyF]

/-- The tone is on exactly while `ST` is not 0 (R51, R116). -/
theorem State.tone_iff {s : State} : s.tone = true ↔ 0 < s.st.toNat := decide_eq_true_iff

/-- Settles O57: one register write, of the delay timer as the step entered its execute phase. -/
theorem getDelayTimerReadsBeforeTheTick : Obligations.GetDelayTimerReadsBeforeTheTick := by
  intro s x
  refine ⟨decodeWord_packXkk_familyF (by simp), fun hvalid => ?_⟩
  have hcompleted : Completed s.nextInput.rand s.enter (s.enter.setReg x s.dt) (.ldVxDt x) := by
    simp only [Completed, State.enter_dt]
  obtain ⟨t, hexec, hmode, -, hclock, hreg⟩ := completesWithRegs_of_completed_setReg hvalid hcompleted
  exact ⟨t, hexec, hmode, hclock, hreg⟩

/-- Settles O58: each execute phase is one write of a timer, then ticked with the other; the tone follows `ST`. -/
theorem setTimersAreTickedInTheSameStep : Obligations.SetTimersAreTickedInTheSameStep := by
  intro s x
  refine ⟨decodeWord_packXkk_familyF (by simp), decodeWord_packXkk_familyF (by simp), fun hvalid => ⟨?_, ?_⟩⟩
  · have hexec : exec (.ldDtVx x) s = .next (s.enter.setDt (s.enter.reg x)).tick :=
      exec_of_completed_valid hvalid rfl (by simp)
    have hclock : s.Clocked (s.reg x) s.st (s.enter.setDt (s.enter.reg x)).tick :=
      State.clocked_tick (by simp) (by simp) (by simp) (by simp)
    exact ⟨_, hexec, by simp, hclock, by simp⟩
  · have hexec : exec (.ldStVx x) s = .next (s.enter.setSt (s.enter.reg x)).tick :=
      exec_of_completed_valid hvalid rfl (by simp)
    obtain ⟨hacc, hdt, hst⟩ : s.Clocked s.dt (s.reg x) (s.enter.setSt (s.enter.reg x)).tick :=
      State.clocked_tick (by simp) (by simp) (by simp) (by simp)
    exact ⟨_, hexec, by simp, ⟨hacc, hdt, hst⟩, hst ▸ State.tone_iff, by simp⟩

end Sys2Proof.Machine
end

section
/-! PROOF. Fault entry (60_exceptions.md): no completed execute phase leaves the machine halted, so a step that ends in
HALTED_FATAL, and did not begin there, is fault entry on the state before it. -/

namespace Sys2Proof.Machine

theorem State.push_mode {s t : State} {p : Word} (h : s.push p = .ok t) : t.mode = s.mode := by
  obtain ⟨_, rfl⟩ := State.push_eq_ok.mp h
  rfl

theorem State.pop_mode {s t : State} {p : Word} (h : s.pop = .ok (p, t)) : t.mode = s.mode := by
  obtain ⟨_, _, rfl⟩ := State.pop_eq_ok.mp h
  rfl

@[simp] theorem State.draw_mode (s : State) (x y : Nibble) (bs : List Byte) : (s.draw x y bs).mode = s.mode := rfl

/-- A completed execute phase keeps `MODE`, or is the start of a wait (R204). -/
theorem Completed.mode_eq {rand : Byte} {e w : State} {i : Instr} (h : Completed rand e w i) :
    w.mode = e.mode ∨ w.mode = .waitingForKey := by
  cases i <;> simp only [Completed] at h
  case ldVxK x =>
    subst h
    exact .inr (State.await_mode e x)
  all_goals left
  case ret =>
    obtain ⟨p, t, hpop, rfl⟩ := h
    rw [State.setPc_mode, State.pop_mode hpop]
  case call nnn =>
    obtain ⟨t, hpush, rfl⟩ := h
    rw [State.setPc_mode, State.push_mode hpush]
  case skp x | sknp x =>
    obtain ⟨k, -, rfl⟩ := h
    exact State.skipIf_mode _ _
  case addI x =>
    obtain ⟨-, rfl⟩ := h
    split <;> rfl
  case drw x y n | ldB x =>
    obtain ⟨-, rfl⟩ := h
    rfl
  case dump x | load x =>
    obtain ⟨-, -, rfl⟩ := h
    exact State.incrementI_mode _ _
  all_goals
    subst h
    simp only [State.setDisplay_mode, State.setPc_mode, State.skipIf_mode, State.setReg_mode, State.setResult_mode,
      State.setI_mode, State.setDt_mode, State.setSt_mode]

/-- An instruction that ends in HALTED_FATAL, from a machine that runs, is fault entry on the state before it (R114). -/
theorem exec_halts_eq_halt {i : Instr} {s t : State} (hrun : s.mode = .running) (h : exec i s = .next t)
    (hhalted : t.mode = .haltedFatal) : ∃ r, t = s.halt r := by
  rcases exec_next h with hfault | ⟨w, hw, -, rfl⟩
  · exact hfault
  · rw [State.tick_mode] at hhalted
    have hmode : w.mode = .running ∨ w.mode = .waitingForKey := by
      simpa only [State.enter_mode, hrun] using hw.mode_eq
    rcases hmode with hmode | hmode <;> simp [hmode] at hhalted

/-- A step that ends in HALTED_FATAL and did not begin there is fault entry on the state before it: a waiting step goes on
waiting or resumes, and a running step faults at its decode or in its instruction (R104, R114). -/
theorem step_halts_eq_halt {s t : State} (hmode : s.mode ≠ .haltedFatal) (h : step s = .next t)
    (hhalted : t.mode = .haltedFatal) : ∃ r, t = s.halt r := by
  rcases step_next h with ⟨hs, -⟩ | ⟨hs, -, rfl⟩ | ⟨-, code, -, rfl⟩ | ⟨hs, -, ⟨e, -, rfl⟩ | ⟨i, -, hexec⟩⟩
  · exact absurd hs hmode
  · simp [hs] at hhalted
  · simp at hhalted
  · exact ⟨_, rfl⟩
  · exact exec_halts_eq_halt hs hexec hhalted

/-- The label of each fault kind stands in the table of 60_exceptions.md section 1 (R220). -/
theorem FaultKind.code_mem_table (k : FaultKind) :
    (k, k.code) ∈ [(FaultKind.decodeFault, 1), (.stackOverflow, 2), (.stackUnderflow, 3), (.pcInvalid, 4),
      (.iOutOfRange, 5), (.memOutOfRange, 6), (.fontWrite, 7), (.keyIndex, 8)] := by
  cases k <;> decide

/-- Settles O19: the case split over what a step can do leaves fault entry alone, and its record is the one `State.halt`
writes, with the fetched word and the code of the kind. -/
theorem faultEntryIsPreciseRollback : Obligations.FaultEntryIsPreciseRollback :=
  ⟨fun _ _ => step_halts_eq_halt, fun _ r => ⟨_, rfl, rfl, rfl, rfl, rfl, FaultKind.code_mem_table r.kind⟩⟩

end Sys2Proof.Machine
end

section
/-! PROOF. The encoder and the decoder (30_encoding.md): each family of the decoder reads back the packed fields of its own
instructions, and rejects exactly the words of its undecoded space. -/

namespace Sys2Proof.Machine

/-! ### Decoding what was encoded -/

/-- The words of family E that decode (R88): the converse of `decodeFamilyE_ok`, on packed words. -/
theorem decodeWord_packXkk_familyE {x : Nibble} {kk : Byte} {i : Instr}
    (h : (kk, i) ∈ [(0x9E, .skp x), (0xA1, .sknp x)]) : decodeWord (packXkk 0xE x kk) = .ok i := by
  rw [decodeWord_familyE (opField_packXkk ..)]
  simp only [List.mem_cons, List.not_mem_nil, or_false, Prod.mk.injEq] at h
  rcases h with ⟨rfl, rfl⟩ | ⟨rfl, rfl⟩
  all_goals simp [decodeFamilyE]

/-- Settles O1, by the families of the opcode map: those with one form each read the fields back, the others by their
sub-opcode. -/
theorem decodeOfEncodeIsTheInstruction : Obligations.DecodeOfEncodeIsTheInstruction := by
  intro i
  cases i <;> rw [encode]
  case cls | ret => rfl
  case jp nnn => simp [decodeWord_family1]
  case call nnn => simp [decodeWord_family2]
  case seImm x kk => simp [decodeWord_family3]
  case sneImm x kk => simp [decodeWord_family4]
  case seReg x y => exact decodeWord_packXyn_family5 x y 0
  case ldImm x kk => simp [decodeWord_family6]
  case addImm x kk => simp [decodeWord_family7]
  case sneReg x y => exact decodeWord_packXyn_family9 x y 0
  case ldI nnn => simp [decodeWord_familyA]
  case jpV0 nnn => simp [decodeWord_familyB]
  case rnd x kk => simp [decodeWord_familyC]
  case drw x y n => simp [decodeWord_familyD]
  case skp x | sknp x => exact decodeWord_packXkk_familyE (by simp)
  case ldVxDt x | ldVxK x | ldDtVx x | ldStVx x | addI x | ldF x | ldB x | dump x | load x =>
    exact decodeWord_packXkk_familyF (by simp)
  all_goals exact decodeWord_packXyn_family8 (by simp)

/-! ### Encoding what was decoded -/

section Fields
variable {w : Word} {op : Nibble}

theorem packNnn_of_opField (hop : opField w = op) : packNnn op (nnnField w) = w := hop ▸ packNnn_fields w

theorem packXkk_of_fields {kk : Byte} (hop : opField w = op) (hkk : kkField w = kk) : packXkk op (xField w) kk = w :=
  hop ▸ hkk ▸ packXkk_fields w

theorem packXyn_of_fields {n : Nibble} (hop : opField w = op) (hn : nField w = n) :
    packXyn op (xField w) (yField w) n = w :=
  hop ▸ hn ▸ packXyn_fields w

/-- Family 8 drops no bit: the sub-opcode it decodes on is the one its instruction is encoded with (R87). -/
theorem encode_of_decodeFamily8 {i : Instr} (hop : opField w = 0x8) (h : decodeFamily8 w = .ok i) : encode i = w := by
  have hform := decodeFamily8_ok h
  simp only [List.mem_cons, List.not_mem_nil, or_false, Prod.mk.injEq] at hform
  rcases hform with ⟨hn, rfl⟩ | ⟨hn, rfl⟩ | ⟨hn, rfl⟩ | ⟨hn, rfl⟩ | ⟨hn, rfl⟩ | ⟨hn, rfl⟩ | ⟨hn, rfl⟩ | ⟨hn, rfl⟩ |
    ⟨hn, rfl⟩
  all_goals exact packXyn_of_fields hop hn

/-- Family E drops no bit (R88). -/
theorem encode_of_decodeFamilyE {i : Instr} (hop : opField w = 0xE) (h : decodeFamilyE w = .ok i) : encode i = w := by
  have hform := decodeFamilyE_ok h
  simp only [List.mem_cons, List.not_mem_nil, or_false, Prod.mk.injEq] at hform
  rcases hform with ⟨hkk, rfl⟩ | ⟨hkk, rfl⟩
  all_goals exact packXkk_of_fields hop hkk

/-- Family F drops no bit (R89). -/
theorem encode_of_decodeFamilyF {i : Instr} (hop : opField w = 0xF) (h : decodeFamilyF w = .ok i) : encode i = w := by
  have hform := decodeFamilyF_ok h
  simp only [List.mem_cons, List.not_mem_nil, or_false, Prod.mk.injEq] at hform
  rcases hform with ⟨hkk, rfl⟩ | ⟨hkk, rfl⟩ | ⟨hkk, rfl⟩ | ⟨hkk, rfl⟩ | ⟨hkk, rfl⟩ | ⟨hkk, rfl⟩ | ⟨hkk, rfl⟩ |
    ⟨hkk, rfl⟩ | ⟨hkk, rfl⟩
  all_goals exact packXkk_of_fields hop hkk

end Fields

/-- Settles O2, by the sixteen values of nibble 0: what each family decodes carries every field of the word. -/
theorem encodeOfDecodeIsTheWord : Obligations.EncodeOfDecodeIsTheWord := by
  intro w i h
  rcases nibble_cases (opField w) with hop | hop | hop | hop | hop | hop | hop | hop | hop | hop | hop | hop | hop | hop |
    hop | hop
  · rw [decodeWord_family0 hop] at h
    obtain ⟨rfl, rfl⟩ | ⟨rfl, rfl⟩ := decodeFamily0_ok h <;> rfl
  · obtain rfl := Except.ok.inj ((decodeWord_family1 hop).symm.trans h)
    exact packNnn_of_opField hop
  · obtain rfl := Except.ok.inj ((decodeWord_family2 hop).symm.trans h)
    exact packNnn_of_opField hop
  · obtain rfl := Except.ok.inj ((decodeWord_family3 hop).symm.trans h)
    exact packXkk_of_fields hop rfl
  · obtain rfl := Except.ok.inj ((decodeWord_family4 hop).symm.trans h)
    exact packXkk_of_fields hop rfl
  · obtain ⟨hn, rfl⟩ := decodeRegisterSkip_ok ((decodeWord_family5 hop).symm.trans h)
    exact packXyn_of_fields hop hn
  · obtain rfl := Except.ok.inj ((decodeWord_family6 hop).symm.trans h)
    exact packXkk_of_fields hop rfl
  · obtain rfl := Except.ok.inj ((decodeWord_family7 hop).symm.trans h)
    exact packXkk_of_fields hop rfl
  · exact encode_of_decodeFamily8 hop ((decodeWord_family8 hop).symm.trans h)
  · obtain ⟨hn, rfl⟩ := decodeRegisterSkip_ok ((decodeWord_family9 hop).symm.trans h)
    exact packXyn_of_fields hop hn
  · obtain rfl := Except.ok.inj ((decodeWord_familyA hop).symm.trans h)
    exact packNnn_of_opField hop
  · obtain rfl := Except.ok.inj ((decodeWord_familyB hop).symm.trans h)
    exact packNnn_of_opField hop
  · obtain rfl := Except.ok.inj ((decodeWord_familyC hop).symm.trans h)
    exact packXkk_of_fields hop rfl
  · obtain rfl := Except.ok.inj ((decodeWord_familyD hop).symm.trans h)
    exact packXyn_of_fields hop rfl
  · exact encode_of_decodeFamilyE hop ((decodeWord_familyE hop).symm.trans h)
  · exact encode_of_decodeFamilyF hop ((decodeWord_familyF hop).symm.trans h)

/-! ### The undecoded spaces -/

section Rejected
variable {w : Word} {e : DecodeReject}

/-- What family 0 rejects (R85). -/
theorem decodeFamily0_error (h : decodeFamily0 w = .error e) : (w ≠ 0x00E0 ∧ w ≠ 0x00EE) ∧ e = .unknownWord w := by
  unfold decodeFamily0 at h
  split at h
  · cases h
  · split at h
    · cases h
    · exact ⟨⟨‹_›, ‹_›⟩, (Except.error.inj h).symm⟩

/-- What families 5 and 9 reject (R86). -/
theorem decodeRegisterSkip_error {i : Instr} (h : decodeRegisterSkip i w = .error e) :
    nField w ≠ 0 ∧ e = .unknownWord w := by
  unfold decodeRegisterSkip at h
  split at h
  · cases h
  · exact ⟨‹_›, (Except.error.inj h).symm⟩

/-- A value of `n` that is no sub-opcode of family 8 is in its undecoded space. -/
theorem family8_spaces_cover :
    ∀ n : Nibble, n ∉ [0x0, 0x1, 0x2, 0x3, 0x4, 0x5, 0x6, 0x7, 0xE] → n ∈ [0x8, 0x9, 0xA, 0xB, 0xC, 0xD, 0xF] := by
  decide

/-- What family 8 rejects (R87). -/
theorem decodeFamily8_error (h : decodeFamily8 w = .error e) :
    nField w ∈ [0x8, 0x9, 0xA, 0xB, 0xC, 0xD, 0xF] ∧ e = .unknownWord w := by
  unfold decodeFamily8 at h
  split at h
  case h_10 =>
    refine ⟨family8_spaces_cover _ ?_, (Except.error.inj h).symm⟩
    simp only [List.mem_cons, List.not_mem_nil, or_false, not_or]
    and_intros <;> assumption
  all_goals cases h

/-- What family E rejects (R88). -/
theorem decodeFamilyE_error (h : decodeFamilyE w = .error e) : kkField w ∉ [0x9E, 0xA1] ∧ e = .unknownWord w := by
  unfold decodeFamilyE at h
  split at h
  case h_3 =>
    refine ⟨?_, (Except.error.inj h).symm⟩
    simp only [List.mem_cons, List.not_mem_nil, or_false, not_or]
    and_intros <;> assumption
  all_goals cases h

/-- What family F rejects (R89). -/
theorem decodeFamilyF_error (h : decodeFamilyF w = .error e) :
    kkField w ∉ [0x07, 0x0A, 0x15, 0x18, 0x1E, 0x29, 0x33, 0x55, 0x65] ∧ e = .unknownWord w := by
  unfold decodeFamilyF at h
  split at h
  case h_10 =>
    refine ⟨?_, (Except.error.inj h).symm⟩
    simp only [List.mem_cons, List.not_mem_nil, or_false, not_or]
    and_intros <;> assumption
  all_goals cases h

/-- The converse of `not_undecoded_of_decodeWord_ok`: a rejected word lies in the undecoded space of its family, and is
rejected by name. A family with no sub-opcode rejects no word. -/
theorem undecoded_of_decodeWord_error (h : decodeWord w = .error e) : Undecoded w ∧ e = .unknownWord w := by
  rcases nibble_cases (opField w) with hop | hop | hop | hop | hop | hop | hop | hop | hop | hop | hop | hop | hop | hop |
    hop | hop
  · obtain ⟨hspace, he⟩ := decodeFamily0_error ((decodeWord_family0 hop).symm.trans h)
    exact ⟨.inl ⟨hop, hspace⟩, he⟩
  · cases (decodeWord_family1 hop).symm.trans h
  · cases (decodeWord_family2 hop).symm.trans h
  · cases (decodeWord_family3 hop).symm.trans h
  · cases (decodeWord_family4 hop).symm.trans h
  · obtain ⟨hspace, he⟩ := decodeRegisterSkip_error ((decodeWord_family5 hop).symm.trans h)
    exact ⟨.inr (.inl ⟨.inl hop, hspace⟩), he⟩
  · cases (decodeWord_family6 hop).symm.trans h
  · cases (decodeWord_family7 hop).symm.trans h
  · obtain ⟨hspace, he⟩ := decodeFamily8_error ((decodeWord_family8 hop).symm.trans h)
    exact ⟨.inr (.inr (.inl ⟨hop, hspace⟩)), he⟩
  · obtain ⟨hspace, he⟩ := decodeRegisterSkip_error ((decodeWord_family9 hop).symm.trans h)
    exact ⟨.inr (.inl ⟨.inr hop, hspace⟩), he⟩
  · cases (decodeWord_familyA hop).symm.trans h
  · cases (decodeWord_familyB hop).symm.trans h
  · cases (decodeWord_familyC hop).symm.trans h
  · cases (decodeWord_familyD hop).symm.trans h
  · obtain ⟨hspace, he⟩ := decodeFamilyE_error ((decodeWord_familyE hop).symm.trans h)
    exact ⟨.inr (.inr (.inr (.inl ⟨hop, hspace⟩))), he⟩
  · obtain ⟨hspace, he⟩ := decodeFamilyF_error ((decodeWord_familyF hop).symm.trans h)
    exact ⟨.inr (.inr (.inr (.inr ⟨hop, hspace⟩))), he⟩

end Rejected

/-- Settles O3: a word that decodes is in no undecoded space, and one that is rejected is in that of its family. -/
theorem exactlyTheListedWordsAreUndecoded : Obligations.ExactlyTheListedWordsAreUndecoded := by
  intro w
  constructor
  · intro hundecoded
    cases hd : decodeWord w with
    | ok i => exact absurd hundecoded (not_undecoded_of_decodeWord_ok hd)
    | error e => rw [(undecoded_of_decodeWord_error hd).2]
  · intro hlisted
    cases hd : decodeWord w with
    | ok i => exact ⟨i, rfl⟩
    | error e => exact absurd (undecoded_of_decodeWord_error hd).1 hlisted

/-- Settles O4: the decoder, run on each of these words. -/
theorem opcodeMapSampleWords : Obligations.OpcodeMapSampleWords := by
  unfold Obligations.OpcodeMapSampleWords
  decide

end Sys2Proof.Machine
end

section
/-! PROOF. What every instruction leaves as it was (10_state.md): one frame of the completed execute phase, component by
component, then each frame rule by it, since fault entry writes `MODE` and `FAULT` alone (R224). -/

namespace Sys2Proof.Machine

/-- What a completed execute phase of `i` from `e` to `w` leaves as it was. -/
structure Frame (i : Instr) (e w : State) : Prop where
  reg : ∀ r, i.writesReg e.cfg r = false → w.reg r = e.reg r
  addr : i.writesI e.cfg = false → w.i = e.i
  stack : i.usesStack = false → w.stack = e.stack ∧ w.depth = e.depth
  slots : i = .ret → w.stack = e.stack
  display : i.writesDisplay = false → w.display = e.display
  pc : i.sequential = true → w.pc = e.pc
  dt : (∀ x, i ≠ .ldDtVx x) → w.dt = e.dt
  st : (∀ x, i ≠ .ldStVx x) → w.st = e.st
  control : (∀ x, i ≠ .ldVxK x) → w.mode = e.mode ∧ w.waitReg = e.waitReg
  fault : w.fault = e.fault
  keys : w.keys = e.keys
  acc : w.acc = e.acc
  inputs : w.inputs = e.inputs
  draws : w.draws = e.draws
  mem : i.storedBytes = 0 → w.mem = e.mem

/-- The frame of every completed execute phase: each ends in one of the named updates, which keep all other components. -/
theorem Completed.frame {rand : Byte} {e w : State} {i : Instr} (h : Completed rand e w i) : Frame i e w := by
  cases i <;> simp only [Completed] at h
  case ret =>
    obtain ⟨p, t, hpop, rfl⟩ := h
    obtain ⟨_, -, rfl⟩ := State.pop_eq_ok.mp hpop
    constructor <;> simp [Instr.usesStack, Instr.sequential, State.setPc, State.reg]
  case call nnn =>
    obtain ⟨t, hpush, rfl⟩ := h
    obtain ⟨_, rfl⟩ := State.push_eq_ok.mp hpush
    constructor <;> simp [Instr.usesStack, Instr.sequential, State.setPc, State.reg]
  case skp x | sknp x =>
    obtain ⟨k, -, rfl⟩ := h
    constructor <;> simp [Instr.sequential]
  case addI x =>
    obtain ⟨-, rfl⟩ := h
    split
    · constructor <;> simp_all [Instr.writesReg, Instr.writesI, State.reg_setFlag]
    · constructor <;> simp [Instr.writesI]
  case drw x y n =>
    obtain ⟨-, rfl⟩ := h
    constructor <;> simp +contextual [Instr.writesReg, Instr.writesDisplay, State.draw, State.reg_setFlag]
  case ldB x =>
    obtain ⟨-, rfl⟩ := h
    constructor <;> simp [Instr.storedBytes]
  case dump x =>
    obtain ⟨-, -, rfl⟩ := h
    constructor <;> simp +contextual [Instr.writesI, Instr.storedBytes]
  case load x =>
    obtain ⟨-, -, rfl⟩ := h
    constructor <;> simp +contextual [Instr.writesI, Instr.writesReg, State.reg_loadRegs]
  all_goals
    subst h
    constructor <;> simp +contextual [Instr.writesReg, Instr.writesI, Instr.writesDisplay, Instr.sequential,
      State.reg_setReg, State.reg_setResult]

/-- What an instruction keeps: a part `f` of the state that fault entry, the clock and the start of the step keep, and that
its completed execute phase keeps. -/
theorem exec_keeps {α : Type} (f : State → α) {i : Instr} {s t : State} (h : exec i s = .next t)
    (hhalt : ∀ e, f (s.halt e) = f s) (htick : ∀ w : State, f w.tick = f w) (henter : f s.enter = f s)
    (hexecute : ∀ w, Completed s.nextInput.rand s.enter w i → f w = f s.enter) : f t = f s := by
  rcases exec_next h with ⟨e, rfl⟩ | ⟨w, hw, -, rfl⟩
  · exact hhalt e
  · calc f w.tick = f w := htick w
      _ = f s.enter := hexecute w hw
      _ = f s := henter

/-- Settles O23, by the frame of the registers. -/
theorem registersWrittenOnlyAsListed : Obligations.RegistersWrittenOnlyAsListed := by
  intro i s t r h hlisted
  refine exec_keeps (·.reg r) h (State.halt_reg s · r) (State.tick_reg · r) (State.enter_reg s r) fun w hw => ?_
  exact hw.frame.reg r (by rwa [State.enter_cfg])

/-- Settles O24, by the frame of `I`. -/
theorem addressRegisterWrittenOnlyAsListed : Obligations.AddressRegisterWrittenOnlyAsListed := by
  intro i s t h hlisted
  refine exec_keeps (·.i) h (State.halt_i s) State.tick_i (State.enter_i s) fun w hw => ?_
  exact hw.frame.addr (by rwa [State.enter_cfg])

/-- Settles O25, by the frame of the stack, of which `RET` keeps the slots. -/
theorem stackTouchedOnlyByCallAndReturn : Obligations.StackTouchedOnlyByCallAndReturn := by
  intro i s t h
  have hslots := exec_keeps (·.stack) h (State.halt_stack s) State.tick_stack (State.enter_stack s)
  have hdepth := exec_keeps (·.depth) h (State.halt_depth s) State.tick_depth (State.enter_depth s)
  exact ⟨fun hlisted => ⟨hslots fun _ hw => (hw.frame.stack hlisted).1, hdepth fun _ hw => (hw.frame.stack hlisted).2⟩,
    fun hret => hslots fun _ hw => hw.frame.slots hret⟩

/-- Settles O26, by the frame of the display. -/
theorem displayChangesOnlyByClearAndDraw : Obligations.DisplayChangesOnlyByClearAndDraw := by
  intro i s t h hlisted
  exact exec_keeps (·.display) h (State.halt_display s) State.tick_display (State.enter_display s) fun _ hw =>
    hw.frame.display hlisted

/-- An instruction that does not end in HALTED_FATAL completed its execute phase. -/
theorem exec_next_of_not_halted {i : Instr} {s t : State} (h : exec i s = .next t) (hmode : t.mode ≠ .haltedFatal) :
    ∃ w, Completed s.nextInput.rand s.enter w i ∧ PcValid w.pc ∧ t = w.tick := by
  refine (exec_next h).resolve_left ?_
  rintro ⟨e, rfl⟩
  exact hmode (State.halt_mode s e)

/-- Settles O28: no sequential instruction writes the `pc` that its step advanced. -/
theorem sequentialInstructionsAdvancePcByTwo : Obligations.SequentialInstructionsAdvancePcByTwo := by
  intro i s t h hmode hseq
  obtain ⟨w, hw, -, rfl⟩ := exec_next_of_not_halted h hmode
  calc w.tick.pc = w.pc := State.tick_pc w
    _ = s.enter.pc := hw.frame.pc hseq
    _ = s.pc + 2 := State.enter_pc s

/-- Settles O20: fault entry, the wait, or the frame of `MODE`, `WAITREG` and `FAULT`. -/
theorem controlStateWrittenOnlyByWaitAndFault : Obligations.ControlStateWrittenOnlyByWaitAndFault := by
  intro i s t h
  rcases exec_next h with ⟨e, rfl⟩ | ⟨w, hw, -, rfl⟩
  · exact .inr (.inl ⟨State.halt_mode s e, State.halt_waitReg s e, by simp⟩)
  · have hfault : w.tick.fault = s.fault := by simpa using hw.frame.fault
    by_cases hwait : ∃ x, i = .ldVxK x
    · obtain ⟨x, rfl⟩ := hwait
      obtain rfl : w = s.enter.await x := hw
      exact .inr (.inr ⟨x, rfl, by simp, by simp, hfault⟩)
    · push Not at hwait
      obtain ⟨hmode, hreg⟩ := hw.frame.control hwait
      exact .inl ⟨by simpa using hmode, by simpa using hreg, hfault⟩

/-! ### Memory (20_memory.md) -/

/-- Memory after a completed execute phase: the bytes the instruction stores, from `I` upward, each at an address that its
check phase found writable (R68, R71). -/
theorem Completed.mem_eq_writeBytes {rand : Byte} {e w : State} {i : Instr} (h : Completed rand e w i) :
    ∃ bs : List Byte, bs.length = i.storedBytes ∧ (∀ k < i.storedBytes, Writable e.cfg (e.i.toNat + k)) ∧
      w.mem = Memory.writeBytes e.cfg e.mem e.i.toNat bs := by
  by_cases hnone : i.storedBytes = 0
  · exact ⟨[], hnone.symm, by simp [hnone], h.frame.mem hnone⟩
  · cases i
    case ldB x =>
      obtain ⟨hcheck, rfl⟩ := h
      exact ⟨_, rfl, fun k hk => checkWrite_eq_none.mp (checkSpan_eq_none.mp hcheck k hk), rfl⟩
    case dump x =>
      obtain ⟨hcheck, -, rfl⟩ := h
      exact ⟨_, State.length_regsUpTo e x, fun k hk => checkWrite_eq_none.mp (checkSpan_eq_none.mp hcheck k hk),
        State.incrementI_mem _ x⟩
    all_goals exact absurd rfl hnone

/-- The frame of memory, for one execute phase: a byte outside the stored ones reads as before (R71). -/
theorem Completed.readByte_of_not_stored {rand : Byte} {e w : State} {i : Instr} {a : Nat} (h : Completed rand e w i)
    (ha : ¬ (e.i.toNat ≤ a ∧ a < e.i.toNat + i.storedBytes)) : w.readByte a = e.readByte a := by
  obtain ⟨bs, hlen, -, hmem⟩ := h.mem_eq_writeBytes
  rw [State.readByte, h.cfg_eq, hmem, Memory.read_writeBytes, dif_neg (hlen ▸ ha)]
  rfl

/-- Settles O27, by the frame of memory. -/
theorem memoryChangesOnlyInTheStoredBytes : Obligations.MemoryChangesOnlyInTheStoredBytes := by
  intro i s t a h ha
  refine exec_keeps (·.readByte a) h (State.halt_readByte s · a) (State.tick_readByte · a) (State.enter_readByte s a)
    fun w hw => ?_
  exact hw.readByte_of_not_stored (by rwa [State.enter_i])

/-- Under the policy `fault` no stored byte is below 0x200, so the frame of memory covers all of them (R65). -/
theorem Completed.readByte_below_font_end {rand : Byte} {e w : State} {i : Instr} {a : Nat}
    (hpolicy : e.cfg.fontWritePolicy = .fault) (h : Completed rand e w i) (ha : a < 0x200) :
    w.readByte a = e.readByte a := by
  obtain ⟨-, -, hwritable, -⟩ := h.mem_eq_writeBytes
  refine h.readByte_of_not_stored ?_
  rintro ⟨hfrom, hto⟩
  obtain ⟨-, hfont | hallow⟩ := hwritable (a - e.i.toNat) (by omega)
  · omega
  · rw [hpolicy] at hallow
    cases hallow

theorem exec_readByte_below_font_end {i : Instr} {s t : State} {a : Nat} (hpolicy : s.cfg.fontWritePolicy = .fault)
    (h : exec i s = .next t) (ha : a < 0x200) : t.readByte a = s.readByte a := by
  refine exec_keeps (·.readByte a) h (State.halt_readByte s · a) (State.tick_readByte · a) (State.enter_readByte s a)
    fun w hw => ?_
  exact hw.readByte_below_font_end (by rwa [State.enter_cfg]) ha

/-- Settles O22: of all that a step can do, only an instruction stores, and none stores below 0x200. -/
theorem fontRegionNeverMutated : Obligations.FontRegionNeverMutated := by
  intro s t hpolicy h a ha
  rcases step_next h with ⟨-, rfl⟩ | ⟨-, -, rfl⟩ | ⟨-, code, -, rfl⟩ | ⟨-, -, ⟨e, -, rfl⟩ | ⟨i, -, hexec⟩⟩
  · rfl
  · simp
  · simp
  · exact State.halt_readByte s _ a
  · exact exec_readByte_below_font_end hpolicy hexec ha

end Sys2Proof.Machine
end

section
/-! PROOF. The invariants of the CORE (10_state.md section 10): fault entry keeps them, and so does the clock after any
execute phase that kept memory, `I` and the empty `FAULT`; a step ends in one of the two. With progress, that each step of a
valid state answers a next state, valid states run for ever. -/

namespace Sys2Proof.Machine

/-! ### Fault entry and the clock -/

theorem State.inv_halt {s : State} (h : s.Inv) (r : Raise) : (s.halt r).Inv := by
  obtain ⟨hcfg, hmem, hacc, -, -⟩ := h
  exact ⟨hcfg, hmem, hacc, by simp, by simp⟩

/-- The clock gives the invariants from what the rest of the step leaves: `ACC` is a remainder of `CLOCK_HZ` (R107). -/
theorem State.inv_tick {w : State} (hcfg : w.cfg.WellFormed) (hmem : Memory.wf w.cfg w.mem) (hfault : w.fault = none)
    (hmode : w.mode ≠ .haltedFatal) (hpc : PcValid w.pc) (hi : w.i.toNat ≤ 0xFFF) : w.tick.Inv := by
  have hacc : w.tick.acc < w.cfg.clockHz := Nat.mod_lt _ hcfg.1
  exact ⟨hcfg, hmem, hacc, by simp [hfault, hmode], fun _ => ⟨hpc, hi⟩⟩

/-! ### The execute phase -/

section Execute
variable {rand : Byte} {e w : State} {i : Instr}

/-- A store ends inside the 4096 bytes, so memory keeps its canonical form. -/
theorem Completed.mem_wf (hmem : Memory.wf e.cfg e.mem) (h : Completed rand e w i) : Memory.wf w.cfg w.mem := by
  obtain ⟨bs, hlen, hwritable, heq⟩ := h.mem_eq_writeBytes
  rw [h.cfg_eq, heq]
  rcases Nat.eq_zero_or_pos bs.length with hnone | hsome
  · rw [List.eq_nil_of_length_eq_zero hnone]
    exact hmem
  · obtain ⟨hlast, -⟩ := hwritable (bs.length - 1) (by omega)
    exact Memory.writeBytes_wf hmem (by omega)

/-- The increment's check reads only the quirk and `I` (R174, R175). -/
theorem State.checkIncrement_congr {s u : State} {x : Nibble} (hcfg : u.cfg = s.cfg) (hi : u.i = s.i) :
    u.checkIncrement x = s.checkIncrement x := by
  unfold State.checkIncrement State.incrementedI
  rw [hcfg, hi]

/-- The check phase of a dump or load keeps `I` in the address space (R174, R175). -/
theorem State.incrementI_i_le {x : Nibble} (hi : e.i.toNat ≤ 0xFFF) (hcheck : e.checkIncrement x = none) :
    (e.incrementI x).i.toNat ≤ 0xFFF := by
  rw [State.incrementI_i]
  split
  · rename_i hquirk
    have hle : e.incrementedI x ≤ 0xFFF := by
      by_contra hout
      simp [State.checkIncrement, hquirk, Nat.lt_of_not_le hout] at hcheck
    rw [BitVec.toNat_ofNat]
    exact (Nat.mod_le _ _).trans hle
  · exact hi

/-- `I` stays in the address space: each of its writers checks or bounds what it writes (R23, R43). -/
theorem Completed.i_le (hcfg : e.cfg.WellFormed) (hi : e.i.toNat ≤ 0xFFF) (h : Completed rand e w i) :
    w.i.toNat ≤ 0xFFF := by
  cases hwrites : i.writesI e.cfg with
  | false =>
    rw [h.frame.addr hwrites]
    exact hi
  | true =>
    cases i
    case ldI nnn =>
      subst h
      rw [State.setI_i, toNat_zextAddr]
      exact Nat.le_of_lt_succ nnn.isLt
    case addI x =>
      obtain ⟨hsum, rfl⟩ := h
      have hle : (BitVec.ofNat 16 (e.addressSum x)).toNat ≤ 0xFFF := by
        rw [BitVec.toNat_ofNat]
        exact (Nat.mod_le _ _).trans hsum
      split <;> exact hle
    case ldF x =>
      obtain ⟨-, -, hfont⟩ := hcfg
      subst h
      rw [State.setI_i, toNat_fontAddress]
      omega
    case dump x | load x =>
      obtain ⟨-, hcheck, rfl⟩ := h
      exact State.incrementI_i_le (by simpa using hi) ((State.checkIncrement_congr (by simp) (by simp)).trans hcheck)
    all_goals cases hwrites

end Execute

/-! ### Every step -/

theorem exec_inv {i : Instr} {s t : State} (hs : s.Inv) (hrun : s.mode = .running) (h : exec i s = .next t) : t.Inv := by
  rcases exec_next h with ⟨r, rfl⟩ | ⟨w, hw, hpc, rfl⟩
  · exact State.inv_halt hs r
  · obtain ⟨hcfg, hmem, -, hfault, hvalid⟩ := hs
    have hnone : s.fault = none := by simpa [hrun] using hfault
    have hle : s.i.toNat ≤ 0xFFF := (hvalid (by simp [hrun])).2
    refine State.inv_tick ?_ (hw.mem_wf (by simpa using hmem)) ?_ ?_ hpc (hw.i_le (by simpa using hcfg) (by simpa using hle))
    · simpa [hw.cfg_eq] using hcfg
    · rw [hw.frame.fault, State.enter_fault, hnone]
    · rcases hw.mode_eq with hmode | hmode <;> simp [hmode, hrun]

/-- A waiting step: its inputs and the clock, with or without a key delivered. -/
theorem waiting_inv {s w : State} (hs : s.Inv) (hwait : s.mode = .waitingForKey) (hcfg : w.cfg = s.cfg)
    (hmem : w.mem = s.mem) (hfault : w.fault = s.fault) (hmode : w.mode ≠ .haltedFatal) (hpc : w.pc = s.pc)
    (hi : w.i = s.i) : w.tick.Inv := by
  obtain ⟨hwf, hcanonical, -, hempty, hvalid⟩ := hs
  obtain ⟨hpcs, his⟩ := hvalid (by simp [hwait])
  have hnone : s.fault = none := by simpa [hwait] using hempty
  exact State.inv_tick (hcfg ▸ hwf) (hcfg ▸ hmem ▸ hcanonical) (hfault.trans hnone) hmode (hpc ▸ hpcs) (hi ▸ his)

/-- Settles O15, by the case split over what a step can do. -/
theorem invariantKeptByEveryStep : Obligations.InvariantKeptByEveryStep := by
  intro s t hs h
  rcases step_next h with ⟨-, rfl⟩ | ⟨hwait, -, rfl⟩ | ⟨hwait, code, -, rfl⟩ | ⟨hrun, -, ⟨e, -, rfl⟩ | ⟨i, -, hexec⟩⟩
  · exact hs
  · exact waiting_inv hs hwait (by simp) (by simp) (by simp) (by simp [hwait]) (by simp) (by simp)
  · exact waiting_inv hs hwait (by simp) (by simp) (by simp) (by simp) (by simp) (by simp)
  · exact State.inv_halt hs _
  · exact exec_inv hs hrun hexec

/-! ### Progress -/

/-- Every arm of `exec` is a `perform`, whose execute phase reads of the state before the step only the random byte
(R49, R105). -/
theorem exec_eq_perform (i : Instr) :
    ∃ body : Byte → State → Except Raise State, ∀ s, exec i s = perform s (body s.nextInput.rand) := by
  cases i
  case rnd x kk => exact ⟨fun rand w => .ok (w.setReg x (rand &&& kk)), fun _ => rfl⟩
  all_goals
    apply Exists.intro (fun _ => _)
    intro s
    rw [exec]
    rfl

/-- Settles O18: every arm of `exec` is a `perform`, which answers a next state. -/
theorem everyInstructionAnswersANextState : Obligations.EveryInstructionAnswersANextState := by
  intro i s
  obtain ⟨body, hexec⟩ := exec_eq_perform i
  rw [hexec]
  exact perform_answers s _

/-- A valid state steps to a next state: the one stop of the model, a fetch outside `PcValid`, is excluded (log 9). -/
theorem step_answers {s : State} (hs : s.Inv) : ∃ t, step s = .next t := by
  obtain ⟨-, -, -, -, hvalid⟩ := hs
  cases hmode : s.mode with
  | haltedFatal => exact ⟨s, step_halted hmode⟩
  | waitingForKey =>
    rw [step_waiting hmode]
    rcases waitingStep_cases s with ⟨-, hstep⟩ | ⟨code, -, hstep⟩
    · exact ⟨_, hstep⟩
    · exact ⟨_, hstep⟩
  | running =>
    obtain ⟨hpc, -⟩ := hvalid (by simp [hmode])
    rw [step_running hmode]
    cases hd : decodeWord s.fetchWord with
    | ok i =>
      rw [runningStep_decoded exec hpc hd]
      exact everyInstructionAnswersANextState i s
    | error e => exact ⟨_, runningStep_undecoded exec hpc hd⟩

/-- A run whose first step answers `t` goes on from `t`. -/
theorem run_succ_of_step {s t : State} (n : Nat) (h : step s = .next t) :
    Sys2Proof.core.run (n + 1) s = Sys2Proof.core.run n t := by
  have hcore : Sys2Proof.core.step s = .next t := h
  simp only [Host.Core.run, hcore]

/-- Settles O17, by induction on the number of steps: each of them answers, and keeps the invariants. -/
theorem validStatesRunForEver : Obligations.ValidStatesRunForEver := by
  intro n
  induction n with
  | zero => exact fun s hs => ⟨s, rfl, hs⟩
  | succ n ih =>
    intro s hs
    obtain ⟨t, hstep⟩ := step_answers hs
    rw [run_succ_of_step n hstep]
    exact ih t (invariantKeptByEveryStep s t hs hstep)

/-- Settles O8, by induction on the number of steps: each of them changes nothing. -/
theorem haltedIsTerminal : Obligations.HaltedIsTerminal := by
  intro n s hhalted
  induction n with
  | zero => rfl
  | succ n ih => rw [run_succ_of_step n (step_halted hhalted), ih]

end Sys2Proof.Machine
end

section
/-! PROOF. The step (40_cycle.md): what it fetches, the clock and the inputs of every step that does not fault, the two
waiting steps, and the key events no other step looks at. -/

namespace Sys2Proof.Machine

/-! ### Fetch and decode -/

/-- The decoder on two bytes is the decoder on their word (R62, R80). -/
theorem decodeWord_of_decodeBytes {hi lo : Byte} {i : Instr} (h : decodeBytes [hi, lo] = .ok (i, [])) :
    decodeWord (wordOfBytes hi lo) = .ok i := by
  cases hd : decodeWord (wordOfBytes hi lo) with
  | ok j => simpa [decodeBytes, hd] using h
  | error e => simp [decodeBytes, hd] at h

/-- Settles O5: the fetched word is the word of the two bytes, and a running step of a decoded word is its `exec`. -/
theorem stepRunsTheDecodedInstruction : Obligations.StepRunsTheDecodedInstruction := by
  intro s i hrun hpc hbytes _
  rw [step_running hrun]
  exact runningStep_decoded exec hpc (decodeWord_of_decodeBytes hbytes)

/-! ### The waiting steps -/

/-- Settles O9: without an event the waiting step is the sampled inputs, then the clock. -/
theorem waitingStepWithoutEventKeepsWaiting : Obligations.WaitingStepWithoutEventKeepsWaiting := by
  intro s hwait hnone
  have hstep : step s = .next s.sample.tick := by simp [step_waiting hwait, waitingStep, hnone]
  have hclock : s.Clocked s.dt s.st s.sample.tick := State.clocked_tick (by simp) (by simp) (by simp) (by simp)
  refine ⟨_, hstep, by simp, hclock, ?_⟩
  simp [hwait]

/-- Settles O10: with an event the waiting step is the sampled inputs, one register write and RUNNING, then the clock. -/
theorem waitingStepDeliversTheKey : Obligations.WaitingStepDeliversTheKey := by
  intro s code hwait hevent
  have hstep : step s = .next (s.sample.deliver code).tick := by simp [step_waiting hwait, waitingStep, hevent]
  have hclock : s.Clocked s.dt s.st (s.sample.deliver code).tick :=
    State.clocked_tick (by simp) (by simp) (by simp) (by simp)
  refine ⟨_, hstep, by simp, fun r => ?_, by simp, hclock, ?_⟩
  · simp only [State.tick_reg, State.reg_deliver, State.sample_waitReg, State.sample_reg]
  · simp

/-! ### The clock and the inputs of a step that does not fault -/

theorem exec_acc {i : Instr} {s t : State} (h : exec i s = .next t) (hmode : t.mode ≠ .haltedFatal) :
    t.acc = (s.acc + 60) % s.cfg.clockHz := by
  obtain ⟨w, hw, -, rfl⟩ := exec_next_of_not_halted h hmode
  rw [State.tick_acc, hw.frame.acc, hw.cfg_eq, State.enter_acc, State.enter_cfg]

/-- Settles O12: the clock ends both waiting steps and every completed instruction. -/
theorem clockAdvancesInEveryStepThatDoesNotFault : Obligations.ClockAdvancesInEveryStepThatDoesNotFault := by
  intro s t h hmode
  rcases step_next h with ⟨hhalted, rfl⟩ | ⟨-, -, rfl⟩ | ⟨-, code, -, rfl⟩ | ⟨-, -, ⟨e, -, rfl⟩ | ⟨i, -, hexec⟩⟩
  · exact absurd hhalted hmode
  · simp
  · simp
  · exact absurd (State.halt_mode s _) hmode
  · exact exec_acc hexec hmode

/-- Settles O13: an execute phase keeps a timer it does not write, and the clock ticks it. -/
theorem timersChangeOnlyByTheirWritersAndTheTick : Obligations.TimersChangeOnlyByTheirWritersAndTheTick := by
  intro i s t h hmode
  obtain ⟨w, hw, -, rfl⟩ := exec_next_of_not_halted h hmode
  have hclock : s.Clocked w.dt w.st w.tick :=
    State.clocked_tick (by simp [hw.cfg_eq]) (by simp [hw.frame.acc]) rfl rfl
  obtain ⟨-, hdt, hst⟩ := hclock
  constructor
  · intro hwriter
    rw [hdt, hw.frame.dt hwriter, State.enter_dt]
  · intro hwriter
    rw [hst, hw.frame.st hwriter, State.enter_st]

/-- Settles O14: no execute phase writes the keypad or the inputs that its step sampled. -/
theorem keypadHoldsThisStepsSnapshot : Obligations.KeypadHoldsThisStepsSnapshot := by
  intro i s t h hmode
  obtain ⟨w, hw, -, rfl⟩ := exec_next_of_not_halted h hmode
  exact ⟨hw.frame.keys, State.inputsTaken_of hw.frame.inputs hw.frame.draws⟩

/-- A step that does not fault samples its keypad and takes its entry of inputs, in both modes (R34, R46). -/
theorem step_takes_inputs {s t : State} (h : step s = .next t) (hmode : t.mode ≠ .haltedFatal) :
    t.keys = s.nextInput.keys ∧ s.InputsTaken t := by
  rcases step_next h with ⟨hhalted, rfl⟩ | ⟨-, -, rfl⟩ | ⟨-, code, -, rfl⟩ | ⟨-, -, ⟨e, -, rfl⟩ | ⟨i, -, hexec⟩⟩
  · exact absurd hhalted hmode
  · exact ⟨rfl, State.inputsTaken_of rfl rfl⟩
  · exact ⟨rfl, State.inputsTaken_of rfl rfl⟩
  · exact absurd (State.halt_mode s _) hmode
  · exact keypadHoldsThisStepsSnapshot i s t hexec hmode

/-- A step that faults or is halted leaves the keypad and the inputs (R113, R224). -/
theorem step_keeps_inputs {s t : State} (h : step s = .next t) (hmode : t.mode = .haltedFatal) :
    t.keys = s.keys ∧ t.inputs = s.inputs ∧ t.draws = s.draws := by
  by_cases hhalted : s.mode = .haltedFatal
  · rw [step_halted hhalted] at h
    obtain rfl := Host.Outcome.next.inj h
    exact ⟨rfl, rfl, rfl⟩
  · obtain ⟨r, rfl⟩ := step_halts_eq_halt hhalted h hmode
    exact ⟨rfl, rfl, rfl⟩

/-- Settles O60: which entry a step takes, and the case split over whether it ends in HALTED_FATAL. -/
theorem eachStepTakesItsOwnInputs : Obligations.EachStepTakesItsOwnInputs := fun _ _ h =>
  ⟨fun _ _ => State.nextInput_cons, State.nextInput_nil, step_takes_inputs h, step_keeps_inputs h⟩

/-! ### Key events outside the wait -/

/-- Two states that enter the same execute phase end their steps alike: both in the same state, or each in fault entry on
itself, for the same reason. -/
theorem perform_congr {s s' : State} (body : State → Except Raise State) (henter : s.enter = s'.enter) :
    (∃ r, perform s body = .next (s.halt r) ∧ perform s' body = .next (s'.halt r)) ∨
    ∃ u, perform s body = .next u ∧ perform s' body = .next u := by
  cases hbody : body s'.enter with
  | error r => exact .inl ⟨r, perform_error (henter ▸ hbody), perform_error hbody⟩
  | ok t =>
    by_cases hpc : PcValid t.pc
    · exact .inr ⟨t.tick, perform_ok (henter ▸ hbody) hpc, perform_ok hbody hpc⟩
    · exact .inl ⟨_, perform_pcInvalid (henter ▸ hbody) hpc, perform_pcInvalid hbody hpc⟩

theorem exec_congr {s s' : State} (i : Instr) (henter : s.enter = s'.enter) (hrand : s.nextInput.rand = s'.nextInput.rand) :
    (∃ r, exec i s = .next (s.halt r) ∧ exec i s' = .next (s'.halt r)) ∨
    ∃ u, exec i s = .next u ∧ exec i s' = .next u := by
  obtain ⟨body, hexec⟩ := exec_eq_perform i
  rw [hexec s, hexec s', hrand]
  exact perform_congr _ henter

/-- The state with these inputs listed for the coming steps. -/
def State.withInputs (s : State) (inputs : List StepInput) : State := { s with inputs := inputs }

@[simp] theorem State.withInputs_mode (s : State) (l : List StepInput) : (s.withInputs l).mode = s.mode := rfl

@[simp] theorem State.withInputs_withInputs (s : State) (l l' : List StepInput) :
    (s.withInputs l).withInputs l' = s.withInputs l' := rfl

/-- Fault entry leaves the inputs as they stand (R224). -/
@[simp] theorem State.withInputs_halt (s : State) (l l' : List StepInput) (r : Raise) :
    ((s.withInputs l).halt r).withInputs l' = (s.withInputs l').halt r := rfl

/-- The execute phase is entered without the event of the entry that was sampled (R100). -/
theorem State.enter_withInputs (s : State) (keys : BitVec 16) (e e' : Option Nibble) (rand : Byte)
    (rest : List StepInput) :
    (s.withInputs (⟨keys, e, rand⟩ :: rest)).enter = (s.withInputs (⟨keys, e', rand⟩ :: rest)).enter := rfl

/-- Fetch and decode do not read the inputs (R101 to R104). -/
theorem step_withInputs_decoded {s : State} {l : List StepInput} {i : Instr} (hrun : s.mode = .running)
    (hpc : PcValid s.pc) (hd : decodeWord s.fetchWord = .ok i) : step (s.withInputs l) = exec i (s.withInputs l) :=
  (step_running (s := s.withInputs l) hrun).trans (runningStep_decoded exec hpc hd)

theorem step_withInputs_undecoded {s : State} {l : List StepInput} {e : DecodeReject} (hrun : s.mode = .running)
    (hpc : PcValid s.pc) (hd : decodeWord s.fetchWord = .error e) :
    step (s.withInputs l) = .next ((s.withInputs l).halt ⟨.decodeFault, s.fetchWord.toNat⟩) :=
  (step_running (s := s.withInputs l) hrun).trans (runningStep_undecoded exec hpc hd)

/-- What another event in the first entry of inputs makes of an instruction: the same state, but that the entry stands
where the instruction faults. -/
theorem exec_other_event {i : Instr} {s t : State} {keys : BitVec 16} {e e' : Option Nibble} {rand : Byte}
    {rest : List StepInput} (hrun : s.mode = .running) (h : exec i (s.withInputs (⟨keys, e, rand⟩ :: rest)) = .next t) :
    exec i (s.withInputs (⟨keys, e', rand⟩ :: rest)) =
      .next (if t.mode = .haltedFatal then t.withInputs (⟨keys, e', rand⟩ :: rest) else t) := by
  rcases exec_congr i (s.enter_withInputs keys e e' rand rest) rfl with ⟨r, hr, hr'⟩ | ⟨u, hu, hu'⟩
  · obtain rfl := Host.Outcome.next.inj (hr.symm.trans h)
    rw [hr', if_pos (State.halt_mode _ r), State.withInputs_halt]
  · obtain rfl := Host.Outcome.next.inj (hu.symm.trans h)
    rw [hu']
    by_cases hmode : u.mode = .haltedFatal
    · obtain ⟨r, rfl⟩ := exec_halts_eq_halt (s.withInputs_mode _ ▸ hrun) hu' hmode
      rw [if_pos hmode, State.withInputs_halt]
    · rw [if_neg hmode]

/-- Settles O11: a halted step changes nothing, a word that does not decode is fault entry, and an instruction enters its
execute phase in the same state whatever the event. -/
theorem keyEventOutsideTheWaitIsIgnored : Obligations.KeyEventOutsideTheWaitIsIgnored := by
  intro s t keys e e' rand rest hmode h
  change step (s.withInputs (⟨keys, e, rand⟩ :: rest)) = .next t at h
  change step (s.withInputs (⟨keys, e', rand⟩ :: rest)) =
    .next (if t.mode = .haltedFatal then t.withInputs (⟨keys, e', rand⟩ :: rest) else t)
  rcases step_next h with ⟨hs, rfl⟩ | ⟨hs, -, -⟩ | ⟨hs, -⟩ | ⟨hs, hpc, ⟨d, hd, rfl⟩ | ⟨i, hd, hexec⟩⟩
  · rw [if_pos hs, State.withInputs_withInputs]
    exact step_halted hs
  · exact absurd hs hmode
  · exact absurd hs hmode
  · rw [if_pos (State.halt_mode _ _), State.withInputs_halt]
    exact step_withInputs_undecoded (s := s) hs hpc hd
  · rw [step_withInputs_decoded (s := s) hs hpc hd]
    exact exec_other_event hs hexec

end Sys2Proof.Machine
end

section
/-! PROOF. What is left of the single instructions' arithmetic, keypad and wait (42_alu.md, 45_timers_keypad.md): shifts,
the random byte, the keypad skips and the start of a wait. -/

namespace Sys2Proof.Machine

/-! ### Shifts and the random byte -/

/-- The bit a right shift drops, as `VF` holds it (R149). -/
theorem flagByte_shiftOutRight (b : Byte) : flagByte (shiftOutRight b) = BitVec.ofNat 8 (b.toNat % 2) := by
  rw [shiftOutRight, BitVec.getLsbD, Nat.testBit_zero, flagByte]
  rcases Nat.mod_two_eq_zero_or_one b.toNat with h | h <;> simp [h]

/-- The bit a left shift drops, as `VF` holds it (R151). -/
theorem flagByte_shiftOutLeft (b : Byte) : flagByte (shiftOutLeft b) = BitVec.ofNat 8 (b.toNat / 128) := by
  have hb : b.toNat < 256 := b.isLt
  rw [shiftOutLeft, BitVec.getLsbD, Nat.testBit_eq_decide_div_mod_eq, flagByte]
  rcases (by omega : b.toNat / 128 = 0 ∨ b.toNat / 128 = 1) with h | h <;> simp [h]

theorem byte_shiftRight_one_eq_ofNat (b : Byte) : b >>> 1 = BitVec.ofNat 8 (b.toNat / 2) := by
  have hb : b.toNat < 256 := b.isLt
  apply BitVec.eq_of_toNat_eq
  rw [BitVec.toNat_ushiftRight, BitVec.toNat_ofNat, Nat.shiftRight_eq_div_pow]
  omega

theorem byte_shiftLeft_one_eq_ofNat (b : Byte) : b <<< 1 = BitVec.ofNat 8 (b.toNat * 2 % 256) := by
  apply BitVec.eq_of_toNat_eq
  rw [BitVec.toNat_shiftLeft, BitVec.toNat_ofNat, Nat.shiftLeft_eq]
  omega

/-- An instruction whose execute phase is a result and a flag, whatever the flag, the flag last (R31). -/
theorem completesWithRegs_of_completed_flagged {i : Instr} {s : State} {x : Nibble} {b : Byte} {f : Bool}
    (hvalid : PcValid (s.pc + 2)) (h : Completed s.nextInput.rand s.enter (s.enter.setResult x b f) i) :
    CompletesWithRegs i s fun r => if r = 0xF then flagByte f else if r = x then b else s.reg r := by
  refine completesWithRegs_of_completed hvalid h (by simp) (by simp) ?_ fun r => ?_
  · exact State.clocked_tick (by simp) (by simp) (by simp) (by simp)
  · simp only [State.reg_setResult, State.enter_reg]

/-- The shift source of the entered state is the one the quirk selects before the step (R10). -/
theorem State.enter_shiftSource (s : State) (x y : Nibble) :
    s.enter.shiftSource x y = if s.cfg.shiftUsesVy = true then s.reg y else s.reg x := by
  simp only [State.shiftSource, State.enter_cfg, State.enter_reg]

/-- Settles O37: each shift is a result and a flag, of the source the quirk selects. -/
theorem shiftsWriteResultAndShiftedOutBit : Obligations.ShiftsWriteResultAndShiftedOutBit := by
  intro s x y src hvalid hsrc
  have hsource : s.enter.shiftSource x y = src := (s.enter_shiftSource x y).trans hsrc.symm
  rw [← flagByte_shiftOutRight, ← flagByte_shiftOutLeft, ← byte_shiftRight_one_eq_ofNat, ← byte_shiftLeft_one_eq_ofNat]
  constructor
  all_goals
    refine completesWithRegs_of_completed_flagged hvalid ?_
    simp only [Completed, hsource]

/-- Settles O38: one register write, of the masked random byte of the step. -/
theorem randomIsTheStepsByteMasked : Obligations.RandomIsTheStepsByteMasked := fun _ _ _ hvalid =>
  completesWithRegs_of_completed_setReg hvalid rfl

/-! ### The keypad -/

/-- The index of a keypad skip: the low nibble, where the policy or the value allows it (R202). -/
theorem keyIndex_eq_ok {cfg : Config} {b : Byte} (h : b.toNat ≤ 0xF ∨ cfg.keyIndexPolicy = .mask) :
    keyIndex cfg b = .ok (b.setWidth 4) := by
  unfold keyIndex
  split
  · rfl
  · have hmask : cfg.keyIndexPolicy = .mask := h.resolve_left ‹_›
    rw [hmask]

/-- An index above 0xF is the fault KeyIndex under the policy `fault` (R202). -/
theorem keyIndex_eq_error {cfg : Config} {b : Byte} (h : 0xF < b.toNat) (hpolicy : cfg.keyIndexPolicy = .fault) :
    keyIndex cfg b = .error ⟨.keyIndex, b.toNat⟩ := by
  rw [keyIndex, if_neg (Nat.not_le.mpr h), hpolicy]

/-- The key that a skip reads is a bit of this step's snapshot (R34, R46). -/
theorem State.enter_key_setWidth (s : State) (b : Byte) :
    s.enter.key (b.setWidth 4) = s.nextInput.keys.getLsbD (b.toNat % 16) := by
  rw [State.key, State.enter_keys, BitVec.toNat_setWidth]

/-- Settles O56: with an index both are skips on one bit of the snapshot, and without one both raise before the skip. -/
theorem keypadSkipsReadTheSnapshot : Obligations.KeypadSkipsReadTheSnapshot := by
  intro s x
  constructor
  · intro hindex
    have hok : keyIndex s.enter.cfg (s.enter.reg x) = .ok ((s.reg x).setWidth 4) := by
      rw [State.enter_cfg, State.enter_reg, keyIndex_eq_ok hindex]
    have hskp : Completed s.nextInput.rand s.enter _ (.skp x) := ⟨_, hok, rfl⟩
    have hsknp : Completed s.nextInput.rand s.enter _ (.sknp x) := ⟨_, hok, rfl⟩
    rw [← s.enter_key_setWidth]
    refine ⟨goesTo_of_completed_skipIf hskp, ?_⟩
    simpa only [Bool.not_eq_true', ite_not, ← Bool.not_eq_true] using goesTo_of_completed_skipIf hsknp
  · intro hhigh hpolicy
    have herror : keyIndex s.enter.cfg (s.enter.reg x) = .error ⟨.keyIndex, (s.reg x).toNat⟩ := by
      rw [State.enter_cfg, State.enter_reg, keyIndex_eq_error hhigh hpolicy]
    constructor
    · rw [exec]
      exact perform_error (by rw [herror])
    · rw [exec]
      exact perform_error (by rw [herror])

/-! ### The `pc` check and the wait -/

/-- An execute phase that ends with a valid `pc` completes (R106). -/
theorem exec_of_completed_pcValid {i : Instr} {s w : State} {p : Word} (h : Completed s.nextInput.rand s.enter w i)
    (hpc : w.pc = p) (hvalid : PcValid p) : exec i s = .next w.tick :=
  (exec_completed h).trans (finish_valid (hpc ▸ hvalid))

/-- An execute phase that ends with the invalid `pc` `p` is the fault PcInvalid with the value `p` (R106). -/
theorem exec_of_completed_pcInvalid {i : Instr} {s w : State} {p : Word} (h : Completed s.nextInput.rand s.enter w i)
    (hpc : w.pc = p) (hinvalid : ¬ PcValid p) : exec i s = .next (s.halt ⟨.pcInvalid, p.toNat⟩) := by
  subst hpc
  exact (exec_completed h).trans (finish_invalid hinvalid)

/-- Settles O59: the execute phase is the start of the wait alone, at every slot but the last. -/
theorem waitForKeyEntersTheWait : Obligations.WaitForKeyEntersTheWait := by
  intro s x
  have hcompleted : Completed s.nextInput.rand s.enter (s.enter.await x) (.ldVxK x) := rfl
  refine ⟨decodeWord_packXkk_familyF (by simp), fun hvalid => ?_, exec_of_completed_pcInvalid hcompleted (by simp)⟩
  have hexec : exec (.ldVxK x) s = .next (s.enter.await x).tick := exec_of_completed_valid hvalid hcompleted (by simp)
  have hclock : s.Clocked s.dt s.st (s.enter.await x).tick := State.clocked_tick (by simp) (by simp) (by simp) (by simp)
  exact ⟨_, hexec, by simp, by simp, by simp, hclock, by simp⟩

end Sys2Proof.Machine
end

section
/-! PROOF. The call stack in use (41_control_flow.md): what a push and a pop leave, then `CALL`, `RET` and the two
together. -/

namespace Sys2Proof.Machine

/-- A push below the sixteenth return address (R28). -/
theorem State.push_of_lt {s : State} (p : Word) (h : s.depth.val < 16) :
    ∃ t, s.push p = .ok t ∧ t.mode = s.mode ∧ t.depth.val = s.depth.val + 1 ∧
      ∀ k : Fin 16, t.stack[k] = if k.val = s.depth.val then p else s.stack[k] := by
  refine ⟨_, State.push_eq_ok.mpr ⟨h, rfl⟩, rfl, rfl, fun k => ?_⟩
  simp only [Fin.getElem_fin, Vector.getElem_set, eq_comm]

/-- A pop of the return address in slot `k` (R29). -/
theorem State.pop_of_depth {s : State} {k : Fin 16} (h : s.depth.val = k.val + 1) :
    ∃ t, s.pop = .ok (s.stack[k], t) ∧ t.mode = s.mode ∧ t.depth.val = k.val ∧ t.stack = s.stack := by
  refine ⟨_, State.pop_eq_ok.mpr ⟨by omega, ?_, rfl⟩, rfl, ?_, rfl⟩
  · simp only [h, Nat.add_sub_cancel, Fin.getElem_fin]
  · simp only [h, Nat.add_sub_cancel]

/-- The execute phase of `CALL` below the sixteenth return address (R123). -/
theorem completed_call {s : State} (nnn : Addr) (h : s.depth.val < 16) :
    ∃ w, Completed s.nextInput.rand s.enter w (.call nnn) ∧ w.mode = s.mode ∧ w.pc = BitVec.ofNat 16 nnn.toNat ∧
      w.depth.val = s.depth.val + 1 ∧ ∀ k : Fin 16, w.stack[k] = if k.val = s.depth.val then s.pc + 2 else s.stack[k] := by
  obtain ⟨t, hpush, hmode, hdepth, hslots⟩ := State.push_of_lt s.enter.pc (by rwa [State.enter_depth])
  simp only [State.enter_mode, State.enter_depth, State.enter_pc, State.enter_stack] at hmode hdepth hslots
  exact ⟨_, ⟨t, hpush, rfl⟩, hmode, zextAddr_eq_ofNat nnn, hdepth, hslots⟩

/-- The execute phase of `RET` with the return address in slot `k` (R121). -/
theorem completed_ret {s : State} {k : Fin 16} (h : s.depth.val = k.val + 1) :
    ∃ w, Completed s.nextInput.rand s.enter w .ret ∧ w.mode = s.mode ∧ w.pc = s.stack[k] ∧ w.depth.val = k.val ∧
      w.stack = s.stack := by
  obtain ⟨t, hpop, hmode, hdepth, hstack⟩ := State.pop_of_depth (s := s.enter) (k := k) (by rwa [State.enter_depth])
  simp only [State.enter_mode, State.enter_stack] at hmode hstack
  exact ⟨_, ⟨_, t, hpop, rfl⟩, hmode, by simp, hdepth, hstack⟩

/-- Settles O41: below the sixteenth return address the execute phase completes, and the target decides; onto a full stack
the push raises before it. -/
theorem callPushesTheReturnAddress : Obligations.CallPushesTheReturnAddress := by
  intro s nnn
  refine ⟨fun hdepth hvalid => ?_, fun hdepth hinvalid => ?_, fun hfull => ?_⟩
  · obtain ⟨w, hw, hmode, hpc, hpushed, hslots⟩ := completed_call nnn hdepth
    exact ⟨w.tick, exec_of_completed_pcValid hw hpc hvalid, hmode, hpc, hpushed, hslots⟩
  · obtain ⟨w, hw, -, hpc, -, -⟩ := completed_call nnn hdepth
    rw [exec_of_completed_pcInvalid hw hpc hinvalid, ← zextAddr_eq_ofNat, toNat_zextAddr]
  · rw [exec]
    refine perform_error ?_
    rw [State.push_full _ (by rwa [State.enter_depth]), State.enter_pc]

/-- Settles O42: the popped address decides; on an empty stack the pop raises. -/
theorem returnPopsTheReturnAddress : Obligations.ReturnPopsTheReturnAddress := by
  intro s
  refine ⟨fun hempty => ?_, fun k hdepth => ?_⟩
  · rw [exec]
    refine perform_error ?_
    rw [State.pop_empty (by rwa [State.enter_depth])]
  · obtain ⟨w, hw, hmode, hpc, hpopped, hstack⟩ := completed_ret hdepth
    constructor
    · intro hvalid
      exact ⟨w.tick, exec_of_completed_pcValid hw hpc hvalid, hmode, hpc, hpopped, hstack⟩
    · exact exec_of_completed_pcInvalid hw hpc

/-- A `CALL` that completes was below the sixteenth return address and went to a valid target (R123). -/
theorem call_guards_of_not_halted {s t : State} {nnn : Addr} (h : exec (.call nnn) s = .next t)
    (hmode : t.mode ≠ .haltedFatal) : s.depth.val < 16 ∧ PcValid (BitVec.ofNat 16 nnn.toNat) := by
  obtain ⟨w, ⟨u, hpush, rfl⟩, hpc, -⟩ := exec_next_of_not_halted h hmode
  obtain ⟨hdepth, -⟩ := State.push_eq_ok.mp hpush
  rw [State.setPc_pc, zextAddr_eq_ofNat] at hpc
  exact ⟨by rwa [State.enter_depth] at hdepth, hpc⟩

/-- Settles O43: the call leaves `a + 2` on top of the stack, in the slot that the return then reads. -/
theorem returnAfterCallComesBack : Obligations.ReturnAfterCallComesBack := by
  intro s t nnn h hmode hback
  obtain ⟨hdepth, htarget⟩ := call_guards_of_not_halted h hmode
  obtain ⟨t', ht', -, -, hpushed, hslots⟩ := (callPushesTheReturnAddress s nnn).1 hdepth htarget
  obtain rfl := Host.Outcome.next.inj (h.symm.trans ht')
  have htop : t.stack[s.depth.val] = s.pc + 2 := (hslots ⟨s.depth.val, hdepth⟩).trans (if_pos rfl)
  obtain ⟨hreturn, -⟩ := (returnPopsTheReturnAddress t).2 ⟨s.depth.val, hdepth⟩ hpushed
  obtain ⟨u, hu, humode, hupc, hudepth, hustack⟩ := hreturn (htop.symm ▸ hback)
  refine ⟨u, hu, humode, hupc.trans htop, Fin.ext hudepth, fun k hk => ?_⟩
  rw [hustack, hslots k, if_neg hk.ne]

end Sys2Proof.Machine
end

section
/-! PROOF. The address register, stores and loads (43_address_memory.md), and the last slot for every sequential
instruction: the guards of each check phase as facts about `I`, then the completed execute phase under them. -/

namespace Sys2Proof.Machine

/-! ### The guards of the check phases -/

/-- A store of `n` bytes inside memory, above the font region or where the policy allows it (R65, R68). -/
theorem checkSpan_checkWrite_eq_none {cfg : Config} {a n : Nat} (htop : a + n ≤ 0x1000)
    (hfont : 0x1FF < a ∨ cfg.fontWritePolicy = .allow) : checkSpan (checkWrite cfg) a n = none :=
  checkSpan_eq_none.mpr fun _ hk => checkWrite_eq_none.mpr ⟨by omega, hfont.imp_left (by omega)⟩

/-- A read of `n` bytes inside memory (R67). -/
theorem checkSpan_checkRead_eq_none {a n : Nat} (htop : a + n ≤ 0x1000) : checkSpan checkRead a n = none :=
  checkSpan_eq_none.mpr fun _ hk => checkRead_eq_none.mpr (by omega)

/-- A read of `n` bytes past memory raises at the lowest address outside it (R67, R223). -/
theorem checkSpan_checkRead_eq_some {a n k : Nat} (hk : k < n) (hlow : ∀ j < k, a + j ≤ 0xFFF) (hfail : 0xFFF < a + k) :
    checkSpan checkRead a n = some ⟨.memOutOfRange, a + k⟩ :=
  checkSpan_eq_some hk (fun j hj => checkRead_eq_none.mpr (hlow j hj)) (if_pos hfail)

theorem State.checkIncrement_eq_none {s : State} {x : Nibble}
    (h : s.cfg.loadStoreIncrementsI = true → s.i.toNat + x.toNat + 1 ≤ 0xFFF) : s.checkIncrement x = none := by
  refine if_neg ?_
  rintro ⟨hquirk, hout⟩
  exact absurd (h hquirk) (Nat.not_le.mpr hout)

/-- Under the quirk, a dump or load that ends at 0xFFF would leave `I` at 0x1000 (R174, R175). -/
theorem State.checkIncrement_eq_some {s : State} {x : Nibble} (hquirk : s.cfg.loadStoreIncrementsI = true)
    (htop : s.i.toNat + x.toNat = 0xFFF) : s.checkIncrement x = some ⟨.iOutOfRange, 0x1000⟩ := by
  have hi : s.incrementedI x = 0x1000 := by rw [State.incrementedI, htop]
  rw [State.checkIncrement, hi, if_pos ⟨hquirk, by decide⟩]

/-- `I` after a dump or load (R174, R175). -/
theorem State.toNat_incrementI_i {s : State} {x : Nibble}
    (h : s.cfg.loadStoreIncrementsI = true → s.i.toNat + x.toNat + 1 ≤ 0xFFF) :
    (s.incrementI x).i.toNat = if s.cfg.loadStoreIncrementsI = true then s.i.toNat + x.toNat + 1 else s.i.toNat := by
  rw [State.incrementI_i]
  split
  · rename_i hquirk
    have hle : s.i.toNat + x.toNat + 1 ≤ 0xFFF := h hquirk
    rw [BitVec.toNat_ofNat, State.incrementedI]
    exact Nat.mod_eq_of_lt (by omega)
  · rfl

/-! ### The execute phases under their guards -/

section Guarded
variable {s : State} (x y n : Nibble)

theorem State.enter_addressSum (s : State) (x : Nibble) : s.enter.addressSum x = s.i.toNat + (s.reg x).toNat := by
  rw [State.addressSum, State.enter_i, State.enter_reg]

/-- Inside memory the sum is `I`, and its flag, where the quirk writes one, is 0 (R171, C3). -/
theorem completed_addI (hsum : s.i.toNat + (s.reg x).toNat ≤ 0xFFF) :
    ∃ w, Completed s.nextInput.rand s.enter w (.addI x) ∧ w.i.toNat = s.i.toNat + (s.reg x).toNat ∧
      ∀ r, w.reg r = if s.cfg.addISetsVf = true ∧ r = 0xF then 0 else s.reg r := by
  have hnat : (BitVec.ofNat 16 (s.i.toNat + (s.reg x).toNat)).toNat = s.i.toNat + (s.reg x).toNat := by
    rw [BitVec.toNat_ofNat]
    exact Nat.mod_eq_of_lt (by omega)
  have hflag : addressOverflow (s.i.toNat + (s.reg x).toNat) = false := decide_eq_false (Nat.not_lt.mpr hsum)
  refine ⟨_, ⟨by rwa [State.enter_addressSum], rfl⟩, ?_, fun r => ?_⟩
  all_goals
    rw [State.enter_addressSum, State.enter_cfg]
    by_cases hquirk : s.cfg.addISetsVf = true
  · rw [if_pos hquirk, State.setFlag_i, State.setI_i, hnat]
  · rw [if_neg hquirk, State.setI_i, hnat]
  · simp [hquirk, hflag, State.reg_setFlag]
  · simp [hquirk]

theorem completed_ldB (htop : s.i.toNat + 2 ≤ 0xFFF) (hfont : 0x1FF < s.i.toNat ∨ s.cfg.fontWritePolicy = .allow) :
    ∃ w, Completed s.nextInput.rand s.enter w (.ldB x) := by
  refine ⟨_, checkSpan_checkWrite_eq_none ?_ ?_, rfl⟩
  · rw [State.enter_i]
    omega
  · rwa [State.enter_i, State.enter_cfg]

theorem completed_dump (htop : s.i.toNat + x.toNat ≤ 0xFFF)
    (hfont : 0x1FF < s.i.toNat ∨ s.cfg.fontWritePolicy = .allow)
    (hincr : s.cfg.loadStoreIncrementsI = true → s.i.toNat + x.toNat + 1 ≤ 0xFFF) :
    Completed s.nextInput.rand s.enter ((s.enter.writeBytes s.i.toNat (s.enter.regsUpTo x)).incrementI x) (.dump x) := by
  refine ⟨checkSpan_checkWrite_eq_none ?_ ?_, State.checkIncrement_eq_none ?_, by rw [State.enter_i]⟩
  · rw [State.enter_i]
    omega
  · rwa [State.enter_i, State.enter_cfg]
  · rwa [State.enter_i, State.enter_cfg]

theorem completed_load (htop : s.i.toNat + x.toNat ≤ 0xFFF)
    (hincr : s.cfg.loadStoreIncrementsI = true → s.i.toNat + x.toNat + 1 ≤ 0xFFF) :
    Completed s.nextInput.rand s.enter ((s.enter.loadRegs s.i.toNat x).incrementI x) (.load x) := by
  refine ⟨checkSpan_checkRead_eq_none ?_, State.checkIncrement_eq_none ?_, by rw [State.enter_i]⟩
  · rw [State.enter_i]
    omega
  · rwa [State.enter_i, State.enter_cfg]

theorem completed_drw (htop : s.i.toNat + n.toNat ≤ 0x1000) :
    Completed s.nextInput.rand s.enter (s.enter.draw x y (s.enter.readBytes s.i.toNat n.toNat)) (.drw x y n) := by
  refine ⟨checkSpan_checkRead_eq_none ?_, by rw [State.enter_i]⟩
  rwa [State.enter_i]

end Guarded

/-! ### The last slot (40_cycle.md section 2) -/

/-- An instruction with no check phase completes its execute phase. -/
theorem completed_of_faultsOnlyPastTheEnd {i : Instr} (h : i.faultsOnlyPastTheEnd = true) (rand : Byte) (e : State) :
    ∃ w, Completed rand e w i := by
  cases i
  case ret | jp | call | seImm | sneImm | seReg | sneReg | jpV0 | skp | sknp | drw | addI | ldB | dump | load => cases h
  all_goals exact ⟨_, rfl⟩

theorem sequential_of_faultsOnlyPastTheEnd {i : Instr} (h : i.faultsOnlyPastTheEnd = true) : i.sequential = true := by
  cases i
  case ret | jp | call | seImm | sneImm | seReg | sneReg | jpV0 | skp | sknp => cases h
  all_goals rfl

/-- A completed sequential instruction in the last slot is PcInvalid with `a + 2`: it leaves the advanced `pc` (R25,
R106). -/
theorem exec_past_the_end {i : Instr} {s : State} (hinvalid : ¬ PcValid (s.pc + 2)) (hseq : i.sequential = true)
    (h : ∃ w, Completed s.nextInput.rand s.enter w i) : exec i s = .next (s.halt ⟨.pcInvalid, (s.pc + 2).toNat⟩) := by
  obtain ⟨w, hw⟩ := h
  exact exec_of_completed_pcInvalid hw ((hw.frame.pc hseq).trans (State.enter_pc s)) hinvalid

/-- Settles O29: each sequential instruction completes its execute phase under its own guards, and is then past the end. -/
theorem sequentialFlowPastTheEndFaults : Obligations.SequentialFlowPastTheEndFaults := by
  intro i s x y n hinvalid
  refine ⟨fun hi => ?_, fun htop => ?_, fun hsum => ?_, fun htop hfont => ?_, fun htop hfont hincr => ?_,
    fun htop hincr => ?_⟩
  · exact exec_past_the_end hinvalid (sequential_of_faultsOnlyPastTheEnd hi) (completed_of_faultsOnlyPastTheEnd hi _ _)
  · exact exec_past_the_end hinvalid rfl ⟨_, completed_drw x y n htop⟩
  · exact exec_past_the_end hinvalid rfl ((completed_addI x hsum).imp fun _ => And.left)
  · exact exec_past_the_end hinvalid rfl (completed_ldB x htop hfont)
  · exact exec_past_the_end hinvalid rfl ⟨_, completed_dump x htop hfont hincr⟩
  · exact exec_past_the_end hinvalid rfl ⟨_, completed_load x htop hincr⟩

/-! ### `ADD I, Vx` -/

/-- Settles O46: the sum is checked before `I` or `VF` is written. -/
theorem addToAddressStaysInMemoryOrFaults : Obligations.AddToAddressStaysInMemoryOrFaults := by
  intro s x
  constructor
  · intro hsum hvalid
    obtain ⟨w, hw, hi, hreg⟩ := completed_addI x hsum
    have hpc : w.pc = s.pc + 2 := (hw.frame.pc rfl).trans (State.enter_pc s)
    obtain ⟨hmode, -⟩ := hw.frame.control (by simp)
    exact ⟨w.tick, exec_of_completed_valid hvalid hw hpc, hmode.trans (State.enter_mode s), hi, hreg⟩
  · intro hsum
    rw [exec]
    refine perform_error ?_
    rw [State.enter_addressSum, if_pos hsum]

/-! ### Dump and load -/

/-- A raise of the check phase of a dump: the addresses come before the increment (R174, R223). -/
theorem exec_dump_error {s : State} {x : Nibble} {r : Raise}
    (h : (checkSpan (checkWrite s.cfg) s.i.toNat (x.toNat + 1)).or (s.checkIncrement x) = some r) :
    exec (.dump x) s = .next (s.halt r) := by
  rw [exec]
  refine perform_error ?_
  rw [State.enter_cfg, State.enter_i, State.checkIncrement_congr s.enter_cfg s.enter_i, h, afterCheck_some]

/-- A raise of the check phase of a load (R175, R223). -/
theorem exec_load_error {s : State} {x : Nibble} {r : Raise}
    (h : (checkSpan checkRead s.i.toNat (x.toNat + 1)).or (s.checkIncrement x) = some r) :
    exec (.load x) s = .next (s.halt r) := by
  rw [exec]
  refine perform_error ?_
  rw [State.enter_i, State.checkIncrement_congr s.enter_cfg s.enter_i, h, afterCheck_some]

/-- A register dumped and read back (R174). -/
theorem State.readByte_writeBytes_regsUpTo (s : State) (a : Nat) {x r : Nibble} (h : r.toNat ≤ x.toNat) :
    (s.writeBytes a (s.regsUpTo x)).readByte (a + r.toNat) = s.reg r := by
  have hlt : r.toNat < (s.regsUpTo x).length := by
    rw [State.length_regsUpTo]
    omega
  rw [State.readByte_writeBytes_add s a hlt, State.getElem_regsUpTo, BitVec.ofNat_toNat, BitVec.setWidth_eq]

/-- Settles O48: the registers read back after the completed store, and the increment's check where the stores pass. -/
theorem dumpStoresTheRegisters : Obligations.DumpStoresTheRegisters := by
  intro s x
  constructor
  · intro htop hfont hincr hvalid
    have hexec := exec_of_completed_valid hvalid (completed_dump x htop hfont hincr) (by simp)
    refine ⟨_, hexec, by simp, by simp, fun r hr => ?_, ?_⟩
    · rw [State.tick_readByte, State.incrementI_readByte, State.readByte_writeBytes_regsUpTo _ _ hr, State.enter_reg]
    · simpa using State.toNat_incrementI_i (s := s.enter.writeBytes s.i.toNat (s.enter.regsUpTo x)) (by simpa using hincr)
  · intro hquirk htop
    have hx : x.toNat < 16 := x.isLt
    refine exec_dump_error ?_
    rw [checkSpan_checkWrite_eq_none (by omega) (.inl (by omega)), State.checkIncrement_eq_some hquirk htop]
    rfl

/-- Settles O49: the bytes loaded in the completed execute phase, and the increment's check where the reads pass. -/
theorem loadReadsTheRegisters : Obligations.LoadReadsTheRegisters := by
  intro s x
  constructor
  · intro htop hincr hvalid
    have hexec := exec_of_completed_valid hvalid (completed_load x htop hincr) (by simp)
    refine ⟨_, hexec, by simp, fun r => ?_, ?_⟩
    · simp only [State.tick_reg, State.incrementI_reg, State.reg_loadRegs, State.enter_readByte, State.enter_reg]
    · simpa using State.toNat_incrementI_i (s := s.enter.loadRegs s.i.toNat x) (by simpa using hincr)
  · intro hquirk htop
    refine exec_load_error ?_
    rw [checkSpan_checkRead_eq_none (by omega), State.checkIncrement_eq_some hquirk htop]
    rfl

/-- Settles O50: the lowest failing address of each span is the raise, before any effect. -/
theorem memoryFaultsReportTheLowestAddress : Obligations.MemoryFaultsReportTheLowestAddress := by
  intro s x y n k
  refine ⟨fun hlow hfail => ⟨fun hk => ?_, fun hk => exec_ldB_unwritable x (by omega) hlow hfail⟩,
    fun hlow hfail => ⟨fun hk => ?_, fun hk => ?_⟩⟩
  · refine exec_dump_error ?_
    rw [checkSpan_checkWrite_eq_some (by omega) hlow hfail]
    rfl
  · refine exec_load_error ?_
    rw [checkSpan_checkRead_eq_some (by omega) hlow hfail]
    rfl
  · rw [exec]
    refine perform_error ?_
    rw [State.enter_i, checkSpan_checkRead_eq_some hk hlow hfail, afterCheck_some]

end Sys2Proof.Machine
end

section
/-! PROOF. The XOR of a drawn sprite (44_display.md): the one pixel rule of a draw, from which drawing twice restores the
display, and the counterexample to the XOR law as it is worded (log 25). -/

namespace Sys2Proof.Machine

/-! ### One draw -/

section Draw
variable {s : State} {x y n : Nibble} {c : Fin 64} {r : Fin 32}

/-- On the display row of sprite row `k` the sprite draws the columns of that row's byte alone: it has at most 15 rows, so
no other of them lands there (R191 to R193). -/
theorem State.spriteDraws_iff_of_row {k : Nat} (hk : k < n.toNat) (hrow : ((s.reg y).toNat % 32 + k) % 32 = r.val) :
    s.SpriteDraws x y n c r ↔
      (spriteMask ((s.reg x).toNat % 64) (s.readByte (s.i.toNat + k))).getLsbD c = true := by
  have hn : n.toNat < 16 := n.isLt
  rw [getLsbD_spriteMask _ _ _ c.isLt, Bool.and_eq_true, decide_eq_true_eq]
  constructor
  · rintro ⟨j, hj, hrow', hleft, hright, hbit⟩
    obtain rfl : j = k := by omega
    exact ⟨⟨hleft, hright⟩, hbit⟩
  · rintro ⟨⟨hleft, hright⟩, hbit⟩
    exact ⟨k, hk, hrow, hleft, hright, hbit⟩

/-- A draw toggles the pixels on which the sprite has a set bit, and keeps the others (R191). -/
theorem State.pixel_draw {a : Nat} (ha : s.i.toNat = a) :
    (s.draw x y (s.readBytes a n.toNat)).pixel c r =
      if s.SpriteDraws x y n c r then !s.pixel c r else s.pixel c r := by
  subst ha
  have hlen : (s.readBytes s.i.toNat n.toNat).length = n.toNat := State.length_readBytes s _ _
  have hn : n.toNat < 16 := n.isLt
  rw [State.draw, State.setFlag_pixel, State.setDisplay_pixel]
  by_cases hrow : ∃ k < n.toNat, ((s.reg y).toNat % 32 + k) % 32 = r.val
  · obtain ⟨k, hk, hr⟩ := hrow
    have hdrawn := drawRows_row ((s.reg x).toNat % 64) (s.readBytes s.i.toNat n.toNat) s.display ((s.reg y).toNat % 32) k
      (by omega) (by omega)
    simp only [hr, State.getElem_readBytes] at hdrawn
    simp only [State.spriteDraws_iff_of_row hk hr, Fin.getElem_fin, hdrawn, BitVec.getLsbD_xor]
    split
    · rename_i hbit
      rw [hbit, Bool.xor_true]
      rfl
    · rename_i hbit
      rw [Bool.eq_false_of_not_eq_true hbit, Bool.xor_false]
      rfl
  · have hnot : ¬ s.SpriteDraws x y n c r := fun ⟨k, hk, hr, _⟩ => hrow ⟨k, hk, hr⟩
    push Not at hrow
    rw [if_neg hnot, Fin.getElem_fin, drawRows_other _ _ _ _ _ r.isLt (by rwa [hlen])]
    rfl

/-- What the sprite draws depends on `I`, the two coordinates and the sprite's bytes (R191). -/
theorem State.spriteDraws_congr {s' : State} (hi : s'.i = s.i) (hx : s'.reg x = s.reg x) (hy : s'.reg y = s.reg y)
    (hbytes : ∀ k < n.toNat, s'.readByte (s.i.toNat + k) = s.readByte (s.i.toNat + k)) :
    s'.SpriteDraws x y n c r ↔ s.SpriteDraws x y n c r := by
  simp only [State.SpriteDraws, hi, hx, hy]
  exact exists_congr fun k => and_congr_right fun hk => by rw [hbytes k hk]

/-- The pixels after the draw of `DRW`, from the state before its step. -/
theorem State.pixel_enter_draw :
    (s.enter.draw x y (s.enter.readBytes s.i.toNat n.toNat)).pixel c r =
      if s.SpriteDraws x y n c r then !s.pixel c r else s.pixel c r := by
  rw [State.pixel_draw (congrArg BitVec.toNat (State.enter_i s)), State.enter_pixel]
  exact if_congr (State.spriteDraws_congr (by simp) (by simp) (by simp) (by simp)) rfl rfl

theorem exec_drw_pixel {t : State} (h : exec (.drw x y n) s = .next t) (hmode : t.mode ≠ .haltedFatal) :
    t.pixel c r = if s.SpriteDraws x y n c r then !s.pixel c r else s.pixel c r := by
  obtain rfl := exec_drw_next h hmode
  exact (State.tick_pixel _ c r).trans State.pixel_enter_draw

end Draw

/-- Settles O52: the draw completes, its pixels follow the pixel rule, and its one register write is of `VF`. -/
theorem drawTogglesExactlyTheSpritesPixels : Obligations.DrawTogglesExactlyTheSpritesPixels := by
  intro s x y n htop hvalid
  have hcompleted := completed_drw x y n htop
  have hexec := exec_of_completed_valid hvalid hcompleted (State.enter_pc s)
  have hmode : (s.enter.draw x y (s.enter.readBytes s.i.toNat n.toNat)).tick.mode = s.mode := State.enter_mode s
  refine ⟨_, hexec, hmode, fun r hr => ?_, fun c r => ?_⟩
  · exact (hcompleted.frame.reg r (by simpa [Instr.writesReg] using hr)).trans (State.enter_reg s r)
  · exact (State.tick_pixel _ c r).trans State.pixel_enter_draw

/-! ### Drawing twice -/

theorem State.display_ext {s t : State} (h : ∀ c r, t.pixel c r = s.pixel c r) : t.display = s.display :=
  Vector.ext fun r hr => BitVec.eq_of_getLsbD_eq fun c hc => h ⟨c, hc⟩ ⟨r, hr⟩

theorem State.pixel_congr {s t : State} (h : t.display = s.display) (c : Fin 64) (r : Fin 32) :
    t.pixel c r = s.pixel c r := by
  rw [State.pixel, h]
  rfl

/-- Settles O54: both draws toggle the same pixels, so the second undoes the first, and turns off exactly the drawn pixels
that the first turned on. -/
theorem drawingTwiceRestoresTheDisplay : Obligations.DrawingTwiceRestoresTheDisplay := by
  intro s t s' u x y n ht htmode hdisplay hi hx hy hbytes hu humode
  have hfirst : ∀ c r, s'.pixel c r = if s.SpriteDraws x y n c r then !s.pixel c r else s.pixel c r := fun c r =>
    (State.pixel_congr hdisplay c r).trans (exec_drw_pixel ht htmode)
  have hsecond : ∀ c r, u.pixel c r = if s.SpriteDraws x y n c r then !s'.pixel c r else s'.pixel c r := fun c r =>
    (exec_drw_pixel hu humode).trans (if_congr (State.spriteDraws_congr hi hx hy hbytes) rfl rfl)
  have hrestored : ∀ c r, u.pixel c r = s.pixel c r := by
    intro c r
    rw [hsecond, hfirst]
    split
    · exact Bool.not_not _
    · rfl
  have hoff : ∀ c r, (s'.pixel c r = true ∧ u.pixel c r = false) ↔ (s.SpriteDraws x y n c r ∧ s.pixel c r = false) := by
    intro c r
    rw [hrestored, hfirst]
    split <;> simp_all
  obtain ⟨hhit, hmiss⟩ := drawReportsCollisionInVF s' u x y n hu humode
  simp only [hoff] at hhit hmiss
  refine ⟨State.display_ext hrestored, fun hflag => ?_, hhit⟩
  by_contra hnone
  exact absurd ((hmiss hnone).symm.trans hflag) (by decide)

/-! ### The XOR law as it is worded -/

/-- Every pixel on, `V0 = V1 = 0`, and `I` at the first byte of glyph 0, which is 0xF0: `DRW V0, V1, 1` draws the four
leftmost pixels of the top row. -/
def fullDisplay : State := { State.reset with display := Vector.replicate 32 (BitVec.allOnes 64) }

/-- After the first draw, which turns those four pixels off. -/
def fullDisplayDrawn : State := (fullDisplay.enter.draw 0 1 (fullDisplay.enter.readBytes 0 1)).tick

/-- After the second draw, from the same instruction, which turns them on again and none off. -/
def fullDisplayRedrawn : State :=
  let again := { fullDisplayDrawn with pc := fullDisplay.pc }
  (again.enter.draw 0 1 (again.enter.readBytes 0 1)).tick

/-- Refutes O55: on a full display the second draw turns no pixel off, so it reports no collision (R191, R194). -/
theorem not_secondDrawAlwaysReportsCollision : ¬ Obligations.SecondDrawAlwaysReportsCollision := by
  intro h
  have hfirst : exec (.drw 0 1 1) fullDisplay = .next fullDisplayDrawn :=
    exec_of_completed_valid (by decide) (completed_drw 0 1 1 (by decide)) rfl
  have hsecond : exec (.drw 0 1 1) { fullDisplayDrawn with pc := fullDisplay.pc } = .next fullDisplayRedrawn :=
    exec_of_completed_valid (by decide) (completed_drw 0 1 1 (by decide)) rfl
  have hdraws : fullDisplay.SpriteDraws 0 1 1 0 0 := by decide
  have hflag : fullDisplayRedrawn.reg 0xF = 1 :=
    h fullDisplay fullDisplayDrawn fullDisplayRedrawn 0 1 1 (by decide) (by decide) hfirst (by decide) hsecond (by decide)
      ⟨0, 0, hdraws⟩
  exact absurd hflag (by decide)

end Sys2Proof.Machine
end

section
/-! PROOF. Construction and reset (10_state.md section 10, 70_reset_and_hazards.md section 1): memory after the fill, the
font and the image, then the components of the constructed state, and the state after reset as one construction. -/

namespace Sys2Proof.Machine

/-! ### Memory after construction -/

/-- An address of the font reads as `FONT_DATA` where nothing is listed (R63, R251). -/
theorem Memory.unlisted_font (cfg : Config) {j : Nat} (hj : j < 80) :
    Memory.unlisted cfg (cfg.fontBase.toNat + j) = cfg.fontData[j] := by
  rw [Memory.unlisted, dif_pos (by omega)]
  simp only [Nat.add_sub_cancel_left]

theorem Memory.unlisted_outside_font {cfg : Config} {a : Nat}
    (h : a < cfg.fontBase.toNat ∨ cfg.fontBase.toNat + 80 ≤ a) : Memory.unlisted cfg a = 0 :=
  dif_neg (by omega)

section Construct
variable {cfg : Config} (cells : List Host.Cell) (image : List Byte)

/-- The image, byte for byte from 0x200 (R252). -/
theorem Memory.read_construct_image {j : Nat} (hj : j < image.length) :
    Memory.read cfg (Memory.construct cfg cells image) (0x200 + j) = image[j] := by
  rw [Memory.construct, Memory.read_writeBytes, dif_pos (by omega)]
  simp only [Nat.add_sub_cancel_left]

/-- The font, which ends below the image (R9, R251). -/
theorem Memory.read_construct_font (hcfg : cfg.WellFormed) {j : Nat} (hj : j < 80) :
    Memory.read cfg (Memory.construct cfg cells image) (cfg.fontBase.toNat + j) = cfg.fontData[j] := by
  obtain ⟨-, -, hfont⟩ := hcfg
  rw [Memory.construct, Memory.read_writeBytes, dif_neg (by omega), Memory.read_writeBytes,
    dif_pos (by rw [Vector.length_toList]; omega)]
  simp only [Nat.add_sub_cancel_left, Vector.getElem_toList]

/-- Every other byte, under the fill `zero` (R44, D21). -/
theorem Memory.read_construct_zero {a : Nat} (hfont : a < cfg.fontBase.toNat ∨ cfg.fontBase.toNat + 80 ≤ a)
    (himage : a < 0x200 ∨ 0x200 + image.length ≤ a) : Memory.read cfg (Memory.construct cfg [] image) a = 0 := by
  rw [Memory.construct, Memory.read_writeBytes, dif_neg (by omega), Memory.read_writeBytes,
    dif_neg (by rw [Vector.length_toList]; omega)]
  exact Memory.unlisted_outside_font hfont

/-- Memory is in canonical form after construction: every write of it is inside the address space. -/
theorem Memory.construct_wf (hcfg : cfg.WellFormed) (hfits : ImageFits image) :
    Memory.wf cfg (Memory.construct cfg cells image) := by
  obtain ⟨-, -, hfont⟩ := hcfg
  have hlen : image.length ≤ 3584 := hfits
  refine Memory.writeBytes_wf (Memory.writeBytes_wf (Memory.fill_wf (Memory.nil_wf cfg)) ?_) (by omega)
  rw [Vector.length_toList]
  omega

end Construct

/-! ### The constructed state -/

/-- Settles O30: the premises of construction are the ranges of the invariants. -/
theorem constructionMeetsTheInvariant : Obligations.ConstructionMeetsTheInvariant := by
  intro cfg fill image inputs s h
  unfold State.construct at h
  split at h
  · obtain ⟨hcfg, hfits⟩ : cfg.WellFormed ∧ ImageFits image := ‹_›
    obtain rfl := Option.some.inj h
    have hi : (fill.values.i.setWidth 16).toNat ≤ 0xFFF := by
      rw [BitVec.toNat_setWidth_of_le (by decide)]
      exact Nat.le_of_lt_succ fill.values.i.isLt
    have hpc : PcValid 0x200 := by decide
    exact ⟨hcfg, Memory.construct_wf _ image hcfg hfits, hcfg.1, by simp, fun _ => ⟨hpc, hi⟩⟩
  · cases h

/-- Settles O31: memory by its read laws, and every other component as construction sets it. -/
theorem constructionLoadsFontAndImage : Obligations.ConstructionLoadsFontAndImage := by
  intro cfg fill image inputs hcfg
  refine ⟨fun hfits => ?_, fun hlong => if_neg fun hvalid => absurd hvalid.2 (Nat.not_le.mpr hlong)⟩
  refine ⟨_, if_pos ⟨hcfg, hfits⟩, fun j => Memory.read_construct_image _ image,
    fun j => Memory.read_construct_font _ image hcfg, rfl, rfl, rfl, rfl, rfl, rfl, rfl, ?_, ?_⟩
  · rintro f rfl
    exact ⟨rfl, BitVec.toNat_setWidth_of_le (by decide), rfl, rfl, rfl, rfl⟩
  · rintro rfl
    refine ⟨fun r => ?_, rfl, fun k => ?_, rfl, rfl, fun c r => ?_, fun a => Memory.read_construct_zero image⟩
    · simp [State.reg, ResetFill.values, FillValues.zero]
    · simp [ResetFill.values, FillValues.zero]
    · simp [State.pixel, ResetFill.values, FillValues.zero]

/-! ### The state after reset -/

/-- Bytes that an empty memory reads as anyway are not listed (log 7). -/
theorem Memory.writeBytes_nil_of_unlisted {cfg : Config} {bs : List Byte} : ∀ {a : Nat},
    (∀ k, ∀ h : k < bs.length, bs[k] = Memory.unlisted cfg (a + k)) → Memory.writeBytes cfg [] a bs = [] := by
  induction bs with
  | nil => exact fun _ => rfl
  | cons b bs ih =>
    intro a h
    have hb : Memory.write cfg [] a b = [] := if_pos (h 0 (by simp))
    rw [Memory.writeBytes, hb]
    refine ih fun k hk => ?_
    rw [Nat.add_assoc, Nat.add_comm 1 k]
    exact h (k + 1) (Nat.succ_lt_succ hk)

/-- Construction with fill `zero` and no image lists no byte: the font is what its addresses read as (log 7). -/
theorem Memory.construct_zero_empty (cfg : Config) : Memory.construct cfg [] [] = [] := by
  refine Memory.writeBytes_nil_of_unlisted fun k hk => ?_
  rw [Vector.length_toList] at hk
  rw [Memory.unlisted_font cfg hk, Vector.getElem_toList]

/-- The state after reset is the construction with the default configuration, fill `zero` and no image (R253). -/
theorem construct_default_eq_reset :
    State.construct Config.default .zero [] [StepInput.idle] = some State.reset := by
  have hmem : Memory.construct Config.default ResetFill.zero.values.mem [] = [] := Memory.construct_zero_empty _
  rw [State.construct, if_pos (by decide), hmem]
  rfl

/-- Settles O32: reset is a construction, so its components and bytes are those construction gives. -/
theorem resetState : Obligations.ResetState := by
  have hwf : Config.default.WellFormed := by decide
  have hbase : Config.default.fontBase.toNat = 0 := rfl
  obtain ⟨hload, -⟩ := constructionLoadsFontAndImage Config.default .zero [] [StepInput.idle] hwf
  obtain ⟨s, hs, -, hfont, hmode, hpc, hfault, hdepth, hkeys, hwait, hacc, -, hzero⟩ := hload (by simp)
  obtain rfl := Option.some.inj (hs.symm.trans construct_default_eq_reset)
  obtain ⟨hreg, hi, -, hdt, hst, hpixel, hmem⟩ := hzero rfl
  refine ⟨hs, hmode, hpc, hfault, hdepth, hreg, hi, hdt, hst, hacc, hkeys, hwait, hpixel, fun j hj => ?_, fun a ha _ => ?_⟩
  · have hbyte := hfont j hj
    rw [hbase, Nat.zero_add] at hbyte
    exact hbyte
  · exact hmem a (.inr (by omega)) (by rw [List.length_nil]; omega)

/-- Settles O16: the state after reset is a construction. -/
theorem invariantHoldsAtReset : Obligations.InvariantHoldsAtReset :=
  constructionMeetsTheInvariant _ _ _ _ _ construct_default_eq_reset

end Sys2Proof.Machine
end
